-- ==== Sys2Proof/Word.lean ====
section
/-!
DEFINITION. The word types of the CHIP-8 CORE (spec/00_scope.md R7): all values are unsigned, of 4, 8, 12 or 16 bits.
-/
namespace Sys2Proof

/-- A u4: a register index, a keypad code, the stack pointer, a sprite height (R7, R92). -/
abbrev Nibble := BitVec 4

/-- A u8: a general register, a memory cell, a timer, an immediate (R7, R21). -/
abbrev Byte := BitVec 8

/-- The 12-bit address operand nnn (R92). -/
abbrev Addr12 := BitVec 12

/-- A u16: an instruction word, `pc`, `I`, a stack slot (R7, R20). -/
abbrev Word := BitVec 16

end Sys2Proof
end

