-- ==== Sys2Proof/Syntax.lean ====
section
/-!
DEFINITION. The instruction set: one constructor per row of spec/opcode_table.json (spec/30_encoding.md R94), with the
operands of its format (R91, R92).
-/
namespace Sys2Proof

/-- The 35 instruction variants of R94. Register operands are nibbles and so always in range (R21, R92). -/
inductive Instr where
  /-- `0nnn` SYS addr (R150) -/
  | sys (nnn : Addr12)
  /-- `00E0` CLS (R191) -/
  | cls
  /-- `00EE` RET (R151) -/
  | ret
  /-- `1nnn` JP addr (R152) -/
  | jp (nnn : Addr12)
  /-- `2nnn` CALL addr (R153) -/
  | call (nnn : Addr12)
  /-- `3xkk` SE Vx, byte (R154) -/
  | seImm (x : Nibble) (kk : Byte)
  /-- `4xkk` SNE Vx, byte (R155) -/
  | sneImm (x : Nibble) (kk : Byte)
  /-- `5xy0` SE Vx, Vy (R156) -/
  | seReg (x y : Nibble)
  /-- `6xkk` LD Vx, byte (R171) -/
  | ldImm (x : Nibble) (kk : Byte)
  /-- `7xkk` ADD Vx, byte (R172) -/
  | addImm (x : Nibble) (kk : Byte)
  /-- `8xy0` LD Vx, Vy (R173) -/
  | ldReg (x y : Nibble)
  /-- `8xy1` OR Vx, Vy (R174) -/
  | orReg (x y : Nibble)
  /-- `8xy2` AND Vx, Vy (R175) -/
  | andReg (x y : Nibble)
  /-- `8xy3` XOR Vx, Vy (R176) -/
  | xorReg (x y : Nibble)
  /-- `8xy4` ADD Vx, Vy (R177) -/
  | addReg (x y : Nibble)
  /-- `8xy5` SUB Vx, Vy (R178) -/
  | subReg (x y : Nibble)
  /-- `8xy6` SHR Vx, Vy (R179) -/
  | shr (x y : Nibble)
  /-- `8xy7` SUBN Vx, Vy (R180) -/
  | subn (x y : Nibble)
  /-- `8xyE` SHL Vx, Vy (R181) -/
  | shl (x y : Nibble)
  /-- `9xy0` SNE Vx, Vy (R157) -/
  | sneReg (x y : Nibble)
  /-- `Annn` LD I, addr (R213) -/
  | ldIndex (nnn : Addr12)
  /-- `Bnnn` JP V0, addr (R158) -/
  | jpV0 (nnn : Addr12)
  /-- `Cxkk` RND Vx, byte (R182) -/
  | rnd (x : Nibble) (kk : Byte)
  /-- `Dxyn` DRW Vx, Vy, nibble (R192) -/
  | drw (x y n : Nibble)
  /-- `Ex9E` SKP Vx (R201) -/
  | skp (x : Nibble)
  /-- `ExA1` SKNP Vx (R202) -/
  | sknp (x : Nibble)
  /-- `Fx07` LD Vx, DT (R210) -/
  | ldVxDt (x : Nibble)
  /-- `Fx0A` LD Vx, K (R203) -/
  | ldVxKey (x : Nibble)
  /-- `Fx15` LD DT, Vx (R211) -/
  | ldDtVx (x : Nibble)
  /-- `Fx18` LD ST, Vx (R212) -/
  | ldStVx (x : Nibble)
  /-- `Fx1E` ADD I, Vx (R214) -/
  | addIndex (x : Nibble)
  /-- `Fx29` LD F, Vx (R215) -/
  | ldFont (x : Nibble)
  /-- `Fx33` LD B, Vx (R216) -/
  | ldBcd (x : Nibble)
  /-- `Fx55` LD [I], Vx, RegDump (R217) -/
  | regDump (x : Nibble)
  /-- `Fx65` LD Vx, [I], RegLoad (R218) -/
  | regLoad (x : Nibble)
  deriving DecidableEq, Repr

end Sys2Proof
end

