-- ==== Sys2Proof/Decode.lean ====
section
/-!
DEFINITION. The decoder and the encoder (spec/30_encoding.md R90 to R103), and the opcode table of R94 as data.
The bit patterns are the spec's table (its decision D28, log 9); the byte order is D1 (log 8).
-/
namespace Sys2Proof

/-- n3 = w[15:12] (R91). -/
def fieldOp (w : Word) : Nibble := w.extractLsb' 12 4

/-- x = w[11:8] (R92). -/
def fieldX (w : Word) : Nibble := w.extractLsb' 8 4

/-- y = w[7:4] (R92). -/
def fieldY (w : Word) : Nibble := w.extractLsb' 4 4

/-- n = n0 = w[3:0] (R92). -/
def fieldN (w : Word) : Nibble := w.extractLsb' 0 4

/-- kk = w[7:0] (R92). -/
def fieldKk (w : Word) : Byte := w.extractLsb' 0 8

/-- nnn = w[11:0] (R92). -/
def fieldNnn (w : Word) : Addr12 := w.extractLsb' 0 12

/-- Why no instruction was read. The first five are R102's sets of failing words (the names are the model's);
`truncated` is the byte decoder's, for fewer than the two bytes of R90. -/
inductive DecodeFailure where
  /-- `5xyN` with N not 0 (R99) -/
  | family5 (n : Nibble)
  /-- `8xyN` with N in 8, 9, A, B, C, D, F (R96) -/
  | family8 (n : Nibble)
  /-- `9xyN` with N not 0 (R99, D36) -/
  | family9 (n : Nibble)
  /-- `ExNN` with NN not 9E or A1 (R97) -/
  | familyE (kk : Byte)
  /-- `FxNN` with NN none of the nine of R98 -/
  | familyF (kk : Byte)
  /-- fewer than two bytes -/
  | truncated
  deriving DecidableEq, Repr

/-- Family 8, selected by n0 (R96). -/
def decode8 (x y n : Nibble) : Except DecodeFailure Instr :=
  match n with
  | 0x0#4 => .ok (.ldReg x y)
  | 0x1#4 => .ok (.orReg x y)
  | 0x2#4 => .ok (.andReg x y)
  | 0x3#4 => .ok (.xorReg x y)
  | 0x4#4 => .ok (.addReg x y)
  | 0x5#4 => .ok (.subReg x y)
  | 0x6#4 => .ok (.shr x y)
  | 0x7#4 => .ok (.subn x y)
  | 0xE#4 => .ok (.shl x y)
  | n => .error (.family8 n)

/-- Family E, selected by the low byte (R97). -/
def decodeE (x : Nibble) (kk : Byte) : Except DecodeFailure Instr :=
  match kk with
  | 0x9E#8 => .ok (.skp x)
  | 0xA1#8 => .ok (.sknp x)
  | kk => .error (.familyE kk)

/-- Family F, selected by the low byte (R98). -/
def decodeF (x : Nibble) (kk : Byte) : Except DecodeFailure Instr :=
  match kk with
  | 0x07#8 => .ok (.ldVxDt x)
  | 0x0A#8 => .ok (.ldVxKey x)
  | 0x15#8 => .ok (.ldDtVx x)
  | 0x18#8 => .ok (.ldStVx x)
  | 0x1E#8 => .ok (.addIndex x)
  | 0x29#8 => .ok (.ldFont x)
  | 0x33#8 => .ok (.ldBcd x)
  | 0x55#8 => .ok (.regDump x)
  | 0x65#8 => .ok (.regLoad x)
  | kk => .error (.familyF kk)

/-- Dispatch on the high nibble (R93 policy 2), the two literal words already taken out. The last arm is n3 = F. -/
def decodeFamily (w : Word) : Except DecodeFailure Instr :=
  match fieldOp w with
  | 0x0#4 => .ok (.sys (fieldNnn w))
  | 0x1#4 => .ok (.jp (fieldNnn w))
  | 0x2#4 => .ok (.call (fieldNnn w))
  | 0x3#4 => .ok (.seImm (fieldX w) (fieldKk w))
  | 0x4#4 => .ok (.sneImm (fieldX w) (fieldKk w))
  | 0x5#4 => if fieldN w = 0#4 then .ok (.seReg (fieldX w) (fieldY w)) else .error (.family5 (fieldN w))
  | 0x6#4 => .ok (.ldImm (fieldX w) (fieldKk w))
  | 0x7#4 => .ok (.addImm (fieldX w) (fieldKk w))
  | 0x8#4 => decode8 (fieldX w) (fieldY w) (fieldN w)
  | 0x9#4 => if fieldN w = 0#4 then .ok (.sneReg (fieldX w) (fieldY w)) else .error (.family9 (fieldN w))
  | 0xA#4 => .ok (.ldIndex (fieldNnn w))
  | 0xB#4 => .ok (.jpV0 (fieldNnn w))
  | 0xC#4 => .ok (.rnd (fieldX w) (fieldKk w))
  | 0xD#4 => .ok (.drw (fieldX w) (fieldY w) (fieldN w))
  | 0xE#4 => decodeE (fieldX w) (fieldKk w)
  | _ => decodeF (fieldX w) (fieldKk w)

/-- The decoder of R93: total on all 65536 words, the two fully literal words first. -/
def decode (w : Word) : Except DecodeFailure Instr :=
  if w = 0x00E0#16 then .ok .cls
  else if w = 0x00EE#16 then .ok .ret
  else decodeFamily w

/-- The word of two bytes in memory order: the byte at the lower address is bits 15:8 (R63; the spec's decision D1, log 8). -/
def wordOfBytes (hi lo : Byte) : Word := hi ++ lo

/-- The byte of a word stored at the lower address, then the one at the higher (R63). -/
def bytesOfWord (w : Word) : List Byte := [w.extractLsb' 8 8, w.extractLsb' 0 8]

/-- The decoder on bytes: one instruction of two bytes (R90) and the rest of the list. -/
def decodeBytes (bs : List Byte) : Except DecodeFailure (Instr × List Byte) :=
  match bs with
  | hi :: lo :: rest =>
    match decode (wordOfBytes hi lo) with
    | .ok i => .ok (i, rest)
    | .error e => .error e
  | [_] => .error .truncated
  | [] => .error .truncated

/-- The instruction the decoder reads from the table's numbering of the bits: bit 0 is the least significant bit of the one
16-bit word; bits at and above `nbits` are 0. -/
def decodeTableWord (nbits w : Nat) : Option Instr :=
  match decodeBytes (bytesOfWord (BitVec.ofNat 16 (w % 2 ^ nbits))) with
  | .ok (i, _) => some i
  | .error _ => none

/-- The word of an instruction, from the patterns of R94. -/
def encode (i : Instr) : Word :=
  match i with
  | .sys nnn => 0x0#4 ++ nnn
  | .cls => 0x00E0#16
  | .ret => 0x00EE#16
  | .jp nnn => 0x1#4 ++ nnn
  | .call nnn => 0x2#4 ++ nnn
  | .seImm x kk => 0x3#4 ++ x ++ kk
  | .sneImm x kk => 0x4#4 ++ x ++ kk
  | .seReg x y => 0x5#4 ++ x ++ y ++ 0x0#4
  | .ldImm x kk => 0x6#4 ++ x ++ kk
  | .addImm x kk => 0x7#4 ++ x ++ kk
  | .ldReg x y => 0x8#4 ++ x ++ y ++ 0x0#4
  | .orReg x y => 0x8#4 ++ x ++ y ++ 0x1#4
  | .andReg x y => 0x8#4 ++ x ++ y ++ 0x2#4
  | .xorReg x y => 0x8#4 ++ x ++ y ++ 0x3#4
  | .addReg x y => 0x8#4 ++ x ++ y ++ 0x4#4
  | .subReg x y => 0x8#4 ++ x ++ y ++ 0x5#4
  | .shr x y => 0x8#4 ++ x ++ y ++ 0x6#4
  | .subn x y => 0x8#4 ++ x ++ y ++ 0x7#4
  | .shl x y => 0x8#4 ++ x ++ y ++ 0xE#4
  | .sneReg x y => 0x9#4 ++ x ++ y ++ 0x0#4
  | .ldIndex nnn => 0xA#4 ++ nnn
  | .jpV0 nnn => 0xB#4 ++ nnn
  | .rnd x kk => 0xC#4 ++ x ++ kk
  | .drw x y n => 0xD#4 ++ x ++ y ++ n
  | .skp x => 0xE#4 ++ x ++ 0x9E#8
  | .sknp x => 0xE#4 ++ x ++ 0xA1#8
  | .ldVxDt x => 0xF#4 ++ x ++ 0x07#8
  | .ldVxKey x => 0xF#4 ++ x ++ 0x0A#8
  | .ldDtVx x => 0xF#4 ++ x ++ 0x15#8
  | .ldStVx x => 0xF#4 ++ x ++ 0x18#8
  | .addIndex x => 0xF#4 ++ x ++ 0x1E#8
  | .ldFont x => 0xF#4 ++ x ++ 0x29#8
  | .ldBcd x => 0xF#4 ++ x ++ 0x33#8
  | .regDump x => 0xF#4 ++ x ++ 0x55#8
  | .regLoad x => 0xF#4 ++ x ++ 0x65#8

/-- The mask of an instruction's row of R94. -/
def Instr.rowMask (i : Instr) : Word :=
  match i with
  | .cls | .ret => 0xFFFF#16
  | .sys _ | .jp _ | .call _ | .seImm _ _ | .sneImm _ _ | .ldImm _ _ | .addImm _ _ | .ldIndex _ | .jpV0 _ | .rnd _ _
  | .drw _ _ _ => 0xF000#16
  | .seReg _ _ | .ldReg _ _ | .orReg _ _ | .andReg _ _ | .xorReg _ _ | .addReg _ _ | .subReg _ _ | .shr _ _ | .subn _ _
  | .shl _ _ | .sneReg _ _ => 0xF00F#16
  | .skp _ | .sknp _ | .ldVxDt _ | .ldVxKey _ | .ldDtVx _ | .ldStVx _ | .addIndex _ | .ldFont _ | .ldBcd _ | .regDump _
  | .regLoad _ => 0xF0FF#16

/-- The match value of an instruction's row of R94. -/
def Instr.rowMatch (i : Instr) : Word :=
  match i with
  | .sys _ => 0x0000#16
  | .cls => 0x00E0#16
  | .ret => 0x00EE#16
  | .jp _ => 0x1000#16
  | .call _ => 0x2000#16
  | .seImm _ _ => 0x3000#16
  | .sneImm _ _ => 0x4000#16
  | .seReg _ _ => 0x5000#16
  | .ldImm _ _ => 0x6000#16
  | .addImm _ _ => 0x7000#16
  | .ldReg _ _ => 0x8000#16
  | .orReg _ _ => 0x8001#16
  | .andReg _ _ => 0x8002#16
  | .xorReg _ _ => 0x8003#16
  | .addReg _ _ => 0x8004#16
  | .subReg _ _ => 0x8005#16
  | .shr _ _ => 0x8006#16
  | .subn _ _ => 0x8007#16
  | .shl _ _ => 0x800E#16
  | .sneReg _ _ => 0x9000#16
  | .ldIndex _ => 0xA000#16
  | .jpV0 _ => 0xB000#16
  | .rnd _ _ => 0xC000#16
  | .drw _ _ _ => 0xD000#16
  | .skp _ => 0xE09E#16
  | .sknp _ => 0xE0A1#16
  | .ldVxDt _ => 0xF007#16
  | .ldVxKey _ => 0xF00A#16
  | .ldDtVx _ => 0xF015#16
  | .ldStVx _ => 0xF018#16
  | .addIndex _ => 0xF01E#16
  | .ldFont _ => 0xF029#16
  | .ldBcd _ => 0xF033#16
  | .regDump _ => 0xF055#16
  | .regLoad _ => 0xF065#16

/-- R94's (mask, match) pairs in the table's order, the two priority rows of R93 first. -/
def opcodeRows : List (Word × Word) :=
  [(0xFFFF#16, 0x00E0#16), (0xFFFF#16, 0x00EE#16), (0xF000#16, 0x0000#16), (0xF000#16, 0x1000#16),
   (0xF000#16, 0x2000#16), (0xF000#16, 0x3000#16), (0xF000#16, 0x4000#16), (0xF00F#16, 0x5000#16),
   (0xF000#16, 0x6000#16), (0xF000#16, 0x7000#16)]
  ++ [(0xF00F#16, 0x8000#16), (0xF00F#16, 0x8001#16), (0xF00F#16, 0x8002#16), (0xF00F#16, 0x8003#16),
   (0xF00F#16, 0x8004#16), (0xF00F#16, 0x8005#16), (0xF00F#16, 0x8006#16), (0xF00F#16, 0x8007#16),
   (0xF00F#16, 0x800E#16), (0xF00F#16, 0x9000#16), (0xF000#16, 0xA000#16), (0xF000#16, 0xB000#16),
   (0xF000#16, 0xC000#16), (0xF000#16, 0xD000#16)]
  ++ [(0xF0FF#16, 0xE09E#16), (0xF0FF#16, 0xE0A1#16), (0xF0FF#16, 0xF007#16), (0xF0FF#16, 0xF00A#16),
   (0xF0FF#16, 0xF015#16), (0xF0FF#16, 0xF018#16), (0xF0FF#16, 0xF01E#16), (0xF0FF#16, 0xF029#16),
   (0xF0FF#16, 0xF033#16), (0xF0FF#16, 0xF055#16), (0xF0FF#16, 0xF065#16)]

/-- The word selects the row: `w AND mask = match` (R94). -/
def rowSelects (row : Word × Word) (w : Word) : Bool := (w &&& row.1) == row.2

end Sys2Proof
end

