-- ==== Sys2Proof/Config.lean ====
section
/-!
DEFINITION. The implementation parameters of spec/00_scope.md R6, the environment's events (spec/10_state.md R39), and
the one free value of the model: which event the environment offers when none has been given.
-/
namespace Sys2Proof

/-- MEM_SIZE: 4096 bytes, addresses 0x000 to 0xFFF (R6, R60). -/
def Config.memSize : Nat := 4096

/-- PROGRAM_BASE and RESET_PC: 0x200 (R6, D2). -/
def Config.programBase : Nat := 0x200

/-- ROM_MAX_LEN: 3584 bytes, 0x200 to 0xFFF (R6, D25). -/
def Config.romMaxLen : Nat := 3584

/-- GLYPH_BYTES: 5 (R6, R215). -/
def Config.glyphBytes : Nat := 5

/-- The values of `in.key_event` (R39): the result of one poll of the input source. -/
inductive KeyEvent where
  | noEvent
  | key (k : Nibble)
  | quit
  | ioFault
  deriving DecidableEq, Repr, Inhabited

/-- The inputs `in` of one executor step (R39, R121). -/
structure StepInput where
  keyEvent : KeyEvent
  rnd : Byte
  sinkFault : Bool
  deriving DecidableEq, Repr, Inhabited

/-- One choice of the environment (R37, R121): which agent steps next, and the executor's inputs. -/
inductive EnvEvent where
  | tick
  | exec (input : StepInput)
  deriving DecidableEq, Repr, Inhabited

/-- The convention of spec/95_test_vectors.md: NoEvent, rnd = 0, sink_fault = false. Only `withFetchWord`, the reset value
of the model's own field `input` and tests use it (log 5, log 7). -/
def StepInput.quiet : StepInput := { keyEvent := .noEvent, rnd := 0#8, sinkFault := false }

/-- FREE VALUE (DESIGN CHOICE, log 1; safe). The environment's n-th choice once `State.pending` is used up. The inputs are
free ("no rule constrains their values or their sequence", R39) and so is the interleaving (R121, R131), so it has no body. -/
opaque Config.event : Nat → EnvEvent

end Sys2Proof
end

