-- ==== Sys2Proof/Machine/State.lean ====
section
/-!
DEFINITION. The state of the CHIP-8 CORE (spec/10_state.md R20, the complete list), as plain data, under the spec's own
names; the reasons a step can stop; and the state after reset (R38, R260).
-/
namespace Sys2Proof.Machine

/-- When the host's failure was seen (spec/60_exceptions.md R230 row 5). -/
inductive IoPhase where
  | poll
  | wait
  | render
  deriving DecidableEq, Repr

/-- A fatal cause with the record R236 and the table of R230 give it: `p` is the pc at the start of the cycle, `w` the
instruction word "when one was fetched" (R236), `addr` the highest address the instruction would have touched (unbounded,
R66). Only HostIoFault is raised both with and without a fetch in its step, so there `w` may be absent (log 22). -/
inductive FatalFault where
  /-- code 1 (R231) -/
  | stackUnderflow (p w : Word)
  /-- code 2 (R232) -/
  | stackOverflow (p w : Word)
  /-- code 3 (R233) -/
  | memoryBoundViolation (p w : Word) (addr : Nat)
  /-- code 4 (R234) -/
  | fetchOutOfBounds (p : Word)
  /-- code 5 (R235): the DRW's word in phase render, none in phases poll and wait, whose steps fetch nothing -/
  | hostIoFault (p : Word) (w : Option Word) (phase : IoPhase)
  deriving DecidableEq, Repr

/-- The run mode (R35). `stopped` and `faulted` are terminal (spec/40_execution_cycle.md R121). -/
inductive Mode where
  | running
  /-- x is the destination register index of the `Fx0A` being waited on -/
  | waitingForKey (x : Nibble)
  | stopped
  | faulted (f : FatalFault)
  deriving DecidableEq, Repr

/-- The framebuffer: 32 rows of 64 one-bit pixels, row 0 at the top and column 0 at the left (R30, R190). -/
abbrev Framebuffer := Vector (Vector Bool 64) 32

/-- What a step hands to the environment (R40). -/
inductive Output where
  | frame (fb : Framebuffer)
  | stopped
  | faultReport (f : FatalFault)
  deriving DecidableEq, Repr

/-- Main memory in its one canonical form: addresses strictly rising, and no entry equal to what an unlisted address
reads as (`Memory.initial`, Machine/Ops.lean). -/
abbrev Memory := List Host.Cell

/-- The complete state (R20), and after it the model's own four fields (log 1, log 2). -/
structure State where
  /-- main memory (R60) -/
  mem : Memory
  /-- V0 to VF; VF is the flag (R21, R22) -/
  V : Vector Byte 16
  /-- the index register (R24) -/
  I : Word
  /-- the program counter (R23) -/
  pc : Word
  /-- the sixteen return-address slots (R28) -/
  stack : Vector Word 16
  /-- the stack pointer, 0 = empty (R29) -/
  sp : Nibble
  /-- the framebuffer (R30) -/
  fb : Framebuffer
  /-- the delay timer (R25) -/
  DT : Byte
  /-- the sound timer (R26) -/
  ST : Byte
  /-- the current-key cell (R27) -/
  key : Option Nibble
  /-- the run mode (R35) -/
  mode : Mode
  /-- MODEL'S OWN: the inputs `in` of the executor step being taken (R39) -/
  input : StepInput
  /-- MODEL'S OWN: the environment's next choices, the nearest first (R37, R121) -/
  pending : List EnvEvent
  /-- MODEL'S OWN: how many choices have been drawn from `Config.event` -/
  envCount : Nat
  /-- MODEL'S OWN: everything handed to the environment so far, the newest first (R40) -/
  outputs : List Output
  deriving DecidableEq, Repr

/-- Why a step stops. Raised by `step` alone, in the two terminal modes, from which "no step of either kind is possible"
(R121); every fault of the spec itself is a next state whose mode is `faulted` (R236, log 3). -/
inductive Fault where
  /-- Raised by `step` when the mode is `stopped`. Safe: the spec gives no step here. -/
  | terminalStopped
  /-- Raised by `step` when the mode is `faulted f`. Safe: the spec gives no step here. -/
  | terminalFaulted (f : FatalFault)
  deriving DecidableEq, Repr

/-- Why the model refuses. -/
inductive Refusal where
  /-- Raised by an arm of `exec` whose instruction has no meaning yet. Safe. No arm raises it in this model. -/
  | notModelled (mnemonic : String)
  deriving DecidableEq, Repr

/-- The state after reset with the empty ROM (R38, R260; R262: a ROM of length 0 is legal): registers, stack and
framebuffer zeroed, memory as `Memory.initial` says (nothing listed), pc at 0x200, mode Running. The values of `I`, `sp`, `pc`,
`DT`, `ST`, `key`, `mode` are the spec's decisions D2 and D3 (log 4); those of the last four fields are the model's
(DESIGN CHOICE, log 5). -/
def State.reset : State where
  mem := []
  V := Vector.replicate 16 0#8
  I := 0#16
  pc := BitVec.ofNat 16 Config.programBase
  stack := Vector.replicate 16 0#16
  sp := 0#4
  fb := Vector.replicate 32 (Vector.replicate 64 false)
  DT := 0#8
  ST := 0#8
  key := none
  mode := .running
  input := StepInput.quiet
  pending := []
  envCount := 0
  outputs := []

end Sys2Proof.Machine
end

