-- ==== Sys2Proof/Machine/Ops.lean ====
section
/-!
DEFINITION. The named operations over memory, registers, stack, framebuffer, mode, environment and outputs. Every meaning
is written through them. Raising a fault is ONE operation here, `State.raise` (spec/60_exceptions.md R236); there is no
return from a fault to write beside it (R238: "There is no return from a fault and no nesting").
-/
namespace Sys2Proof.Machine

/-! ### Memory (spec/20_memory.md) -/

/-- The standard font of R261, in address order, 16 glyphs of 5 bytes (the spec's decision D29, log 6). -/
def fontBytes : List Byte :=
  [0xF0#8, 0x90#8, 0x90#8, 0x90#8, 0xF0#8, 0x20#8, 0x60#8, 0x20#8, 0x20#8, 0x70#8,
   0xF0#8, 0x10#8, 0xF0#8, 0x80#8, 0xF0#8, 0xF0#8, 0x10#8, 0xF0#8, 0x10#8, 0xF0#8]
  ++ [0x90#8, 0x90#8, 0xF0#8, 0x10#8, 0x10#8, 0xF0#8, 0x80#8, 0xF0#8, 0x10#8, 0xF0#8,
   0xF0#8, 0x80#8, 0xF0#8, 0x90#8, 0xF0#8, 0xF0#8, 0x10#8, 0x20#8, 0x40#8, 0x40#8]
  ++ [0xF0#8, 0x90#8, 0xF0#8, 0x90#8, 0xF0#8, 0xF0#8, 0x90#8, 0xF0#8, 0x10#8, 0xF0#8,
   0xF0#8, 0x90#8, 0xF0#8, 0x90#8, 0x90#8, 0xE0#8, 0x90#8, 0xE0#8, 0x90#8, 0xE0#8]
  ++ [0xF0#8, 0x80#8, 0x80#8, 0x80#8, 0xF0#8, 0xE0#8, 0x90#8, 0x90#8, 0x90#8, 0xE0#8,
   0xF0#8, 0x80#8, 0xF0#8, 0x80#8, 0xF0#8, 0xF0#8, 0x80#8, 0xF0#8, 0x80#8, 0x80#8]

/-- What an address that is not listed reads as: the reset contents with the empty ROM, the font at 0x000 to 0x04F and 0
from 0x050 on (R38, R260; log 6). -/
def Memory.initial (a : Nat) : Byte := fontBytes.getD a 0#8

/-- One byte of memory. The rules check their bounds before they read (R66), so an address above 0xFFF is never read by an
instruction; the function is total and gives 0 there (log 20). -/
def Memory.read (m : Memory) (a : Nat) : Byte :=
  match m with
  | [] => Memory.initial a
  | c :: m => if c.1 = a then c.2 else Memory.read m a

/-- The memory without an entry for `a`. -/
def Memory.erase (m : Memory) (a : Nat) : Memory := m.filter (fun c => c.1 != a)

/-- The memory with an entry put before the first greater address. -/
def Memory.insert (m : Memory) (a : Nat) (b : Byte) : Memory :=
  match m with
  | [] => [(a, b)]
  | c :: m => if a < c.1 then (a, b) :: c :: m else c :: Memory.insert m a b

/-- `MemWrite(addr, 1, v)` (R8, R64). The canonical form is kept: a byte equal to what an unlisted address reads as is
not listed. -/
def Memory.write (m : Memory) (a : Nat) (b : Byte) : Memory :=
  if b = Memory.initial a then Memory.erase m a else Memory.insert (Memory.erase m a) a b

/-- The canonical form: strictly rising addresses, all of them addresses of R60, and no entry that an unlisted address
would read as anyway. -/
abbrev Memory.wf (m : Memory) : Prop :=
  List.Pairwise (fun c d : Host.Cell => c.1 < d.1) m ∧ ∀ c ∈ m, c.1 < Config.memSize ∧ c.2 ≠ Memory.initial c.1

/-! ### Single-field updates and reads -/

/-- The byte at an address. -/
def State.byteAt (s : State) (a : Nat) : Byte := s.mem.read a

/-- `MemRead(a, 2)`: big-endian (R8, R63). -/
def State.wordAt (s : State) (a : Nat) : Word := wordOfBytes (s.byteAt a) (s.byteAt (a + 1))

def State.setMem (s : State) (m : Memory) : State := { s with mem := m }

/-- `mem[a] <- b` (R8). -/
def State.setByte (s : State) (a : Nat) (b : Byte) : State := s.setMem (s.mem.write a b)

/-- `V[x]` (R8, R21). -/
def State.reg (s : State) (x : Nibble) : Byte := s.V[x.toNat]'x.isLt

/-- `V[x] <- b` (R8, R21): no register is hard-wired. -/
def State.setReg (s : State) (x : Nibble) (b : Byte) : State := { s with V := s.V.set x.toNat b x.isLt }

/-- VF is register 15 (R21, R22). -/
def VF : Nibble := 0xF#4

def State.setI (s : State) (w : Word) : State := { s with I := w }

def State.setPc (s : State) (w : Word) : State := { s with pc := w }

/-- `stack[j]` (R8, R28). -/
def State.slot (s : State) (j : Nibble) : Word := s.stack[j.toNat]'j.isLt

/-- `stack[j] <- w` (R8, R28). -/
def State.setSlot (s : State) (j : Nibble) (w : Word) : State := { s with stack := s.stack.set j.toNat w j.isLt }

def State.setSp (s : State) (j : Nibble) : State := { s with sp := j }

def State.setFb (s : State) (fb : Framebuffer) : State := { s with fb := fb }

def State.setDT (s : State) (b : Byte) : State := { s with DT := b }

def State.setST (s : State) (b : Byte) : State := { s with ST := b }

def State.setKey (s : State) (k : Option Nibble) : State := { s with key := k }

def State.setMode (s : State) (m : Mode) : State := { s with mode := m }

def State.setInput (s : State) (i : StepInput) : State := { s with input := i }

/-- One output event (R40). -/
def State.emit (s : State) (o : Output) : State := { s with outputs := o :: s.outputs }

/-! ### The framebuffer (spec/43_display.md R190) -/

/-- `fb[r][c]`. -/
def getPixel (fb : Framebuffer) (r : Fin 32) (c : Fin 64) : Bool := fb[r.val][c.val]

/-- `fb[r][c] <- b`. -/
def setPixel (fb : Framebuffer) (r : Fin 32) (c : Fin 64) (b : Bool) : Framebuffer :=
  fb.set r.val (fb[r.val].set c.val b c.isLt) r.isLt

/-- Every pixel 0 (R191). -/
def clearFb : Framebuffer := Vector.replicate 32 (Vector.replicate 64 false)

/-- `fb[r][c]` of a state. -/
def State.pixel (s : State) (r : Fin 32) (c : Fin 64) : Bool := getPixel s.fb r c

/-- `emit_frame()`: a copy of the whole framebuffer as one output event (R8, R194). -/
def State.emitFrame (s : State) : State := s.emit (.frame s.fb)

/-! ### Taking a fault, stopping -/

/-- `raise F(info)` (R8, R236): mode <- Faulted(F, info), with the fault report of R40; `pc` and everything else stay. -/
def State.raise (s : State) (f : FatalFault) : State := (s.setMode (.faulted f)).emit (.faultReport f)

/-- The quit signal (spec/40_execution_cycle.md R123, R128): mode <- Stopped, with the output `stopped` of R40. -/
def State.stop (s : State) : State := (s.setMode .stopped).emit .stopped

/-- The cause codes of R230 (the spec's numbering, D21). -/
def FatalFault.code (f : FatalFault) : Nat :=
  match f with
  | .stackUnderflow _ _ => 1
  | .stackOverflow _ _ => 2
  | .memoryBoundViolation _ _ _ => 3
  | .fetchOutOfBounds _ => 4
  | .hostIoFault _ _ _ => 5

/-! ### The timer engine -/

/-- Decrement with saturation at 0 (R130). -/
def decSat (b : Byte) : Byte := if b = 0#8 then 0#8 else b - 1#8

/-- One timer step `Tick(S)` (R130): both cells, nothing else. -/
def State.tick (s : State) : State := (s.setDT (decSat s.DT)).setST (decSat s.ST)

/-! ### The environment (R37, R39, R121; log 1) -/

/-- The environment's next choice: the first pending one, and a free value when none is pending. -/
def State.nextEvent (s : State) : EnvEvent :=
  match s.pending with
  | e :: _ => e
  | [] => Config.event s.envCount

/-- The state after the environment's next choice has been taken up. -/
def State.takeEvent (s : State) : State :=
  match s.pending with
  | _ :: es => { s with pending := es }
  | [] => { s with envCount := s.envCount + 1 }

end Sys2Proof.Machine
end

