-- ==== Sys2Proof/Machine/Boot.lean ====
section
/-!
DEFINITION. How a program comes into memory: the ROM of spec/70_reset_and_hazards.md R260, R262, and the placing of one
instruction where the next fetch reads it (log 7).
-/
namespace Sys2Proof.Machine

/-- `mem[base + i] <- bs[i]`, in order. -/
def State.storeBytes (s : State) (base : Nat) (bs : List Byte) : State :=
  match bs with
  | [] => s
  | b :: bs => (s.setByte base b).storeBytes (base + 1) bs

/-- Reset with a ROM (R260, R262): `rom[i]` at `0x200 + i`. A ROM longer than 3584 bytes is refused: no initial state
exists for it (D25, log 7). -/
def resetRom (rom : List Byte) : Option State :=
  if rom.length ≤ Config.romMaxLen then some (State.reset.storeBytes Config.programBase rom) else none

/-- The state with an instruction word at pc, in mode Running, and one executor step with quiet inputs as the environment's
next choice. Where pc is above 0xFFE no instruction can stand at pc, and no byte is stored. -/
def placeWord (s : State) (w : Word) : State :=
  let s' := if s.pc.toNat ≤ 0xFFE then s.storeBytes s.pc.toNat (bytesOfWord w) else s
  { s' with mode := .running, pending := .exec StepInput.quiet :: s.pending }

end Sys2Proof.Machine
end

