-- ==== Sys2Proof/Machine/Flags.lean ====
section
/-!
DEFINITION. Every value the spec gives VF as a flag (spec/10_state.md R22): carry, no-borrow, the bit shifted out, collision.
-/
namespace Sys2Proof.Machine

/-- A flag as the byte 1 or 0. -/
def flagByte (b : Bool) : Byte := if b then 1#8 else 0#8

/-- 1 iff the unsigned sum exceeds 255 (spec/42_alu.md R177). -/
def carryFlag (a b : Byte) : Byte := flagByte (decide (a.toNat + b.toNat > 255))

/-- 1 iff minuend >= subtrahend (R178, R180). -/
def noBorrowFlag (minuend subtrahend : Byte) : Byte := flagByte (decide (minuend.toNat ≥ subtrahend.toNat))

/-- Bit 0, the bit a right shift puts out (R179). -/
def shrFlag (b : Byte) : Byte := flagByte (b.getLsbD 0)

/-- Bit 7, the bit a left shift puts out (R181). -/
def shlFlag (b : Byte) : Byte := flagByte (b.getLsbD 7)

/-- 1 iff a set pixel was cleared (spec/43_display.md R192). -/
def collisionFlag (hit : Bool) : Byte := flagByte hit

end Sys2Proof.Machine
end

