-- ==== Sys2Proof/Machine/Operands.lean ====
section
/-!
DEFINITION. Operand forms and address computations: the pc's successors (spec/40_execution_cycle.md R126, R127), the
zero-extended address operand (spec/30_encoding.md R92), base-plus-offset addresses and their bound (spec/20_memory.md
R66, spec/45_timers_index_memory.md R219), the glyph address (R215), decimal digits (R216), sprite coordinates (R192).
-/
namespace Sys2Proof.Machine

/-- (p + 2) mod 65536 (R126, R127). -/
def nextPc (p : Word) : Word := p + 2#16

/-- (p + 4) mod 65536 (R126, R159: a skip skips exactly one word). -/
def skipPc (p : Word) : Word := p + 4#16

/-- zext_16(nnn) (R92). -/
def targetOf (nnn : Addr12) : Word := nnn.setWidth 16

/-- zext_16(V[x]). -/
def zextByte (b : Byte) : Word := b.setWidth 16

/-- pc <- (p + 2) mod 65536. -/
def State.advance (s : State) : State := s.setPc (nextPc s.pc)

/-- pc <- p + 4 if the condition holds, else p + 2 (R126, R159). -/
def State.skipIf (s : State) (c : Bool) : State := s.setPc (if c then skipPc s.pc else nextPc s.pc)

/-- V[x][3:0] (spec/44_keypad.md R204). -/
def lowNibble (b : Byte) : Nibble := b.extractLsb' 0 4

/-- The "match" of R204: key = Some(k) and k = V[x][3:0]. -/
def State.keyMatches (s : State) (x : Nibble) : Bool := s.key == some (lowNibble (s.reg x))

/-- I + offset as an unbounded integer (R66, R219, D35). -/
def effAddr (base : Word) (off : Nat) : Nat := base.toNat + off

/-- The highest address touched exists (R60, R66). -/
def inBounds (top : Nat) : Bool := decide (top ≤ 0xFFF)

/-- 5 * zext_16(V[x]): the whole register value, not masked (R215). -/
def glyphAddr (b : Byte) : Word := BitVec.ofNat 16 (Config.glyphBytes * b.toNat)

/-- v div 100 (R216). -/
def hundreds (v : Byte) : Byte := BitVec.ofNat 8 (v.toNat / 100)

/-- (v div 10) mod 10 (R216). -/
def tens (v : Byte) : Byte := BitVec.ofNat 8 (v.toNat / 10 % 10)

/-- v mod 10 (R216). -/
def units (v : Byte) : Byte := BitVec.ofNat 8 (v.toNat % 10)

/-- Bit 7 - c of a sprite row: bit 7 is the leftmost pixel, column offset 0 (R192, R195, D14). -/
def spriteBit (b : Byte) (c : Nat) : Bool := b.getLsbD (7 - c)

/-- (x0 + c) mod 64 (R190, R192). -/
def spriteCol (x0 : Byte) (c : Nat) : Fin 64 := Fin.ofNat 64 (x0.toNat + c)

/-- (y0 + r) mod 32 (R190, R192). -/
def spriteRow (y0 : Byte) (r : Nat) : Fin 32 := Fin.ofNat 32 (y0.toNat + r)

end Sys2Proof.Machine
end

