-- ==== Sys2Proof/Machine/Alu.lean ====
section
/-!
DEFINITION. Register loads, ALU operations and the random instruction (spec/42_alu.md R170 to R182). None can fault,
none touches memory, and every one ends with pc <- p + 2.
-/
namespace Sys2Proof.Machine

/-- V[x] <- v, then the advance: the shape of the instructions without a flag. -/
def State.loadReg (s : State) (x : Nibble) (v : Byte) : State := (s.setReg x v).advance

/-- V[x] <- v, then VF <- flag, then the advance: result first, flag last (R177, R178, R180; D7, log 11). -/
def State.resultThenFlag (s : State) (x : Nibble) (v flag : Byte) : State := ((s.setReg x v).setReg VF flag).advance

/-- LD Vx, byte (R171; D30, log 12). -/
def execLdImm (x : Nibble) (kk : Byte) (s : State) : Host.Outcome State Fault Refusal :=
  .next (s.loadReg x kk)

/-- ADD Vx, byte: wraps, VF not written as a flag (R172; D9, log 12). -/
def execAddImm (x : Nibble) (kk : Byte) (s : State) : Host.Outcome State Fault Refusal :=
  .next (s.loadReg x (s.reg x + kk))

/-- LD Vx, Vy (R173; D30, log 12). -/
def execLdReg (x y : Nibble) (s : State) : Host.Outcome State Fault Refusal :=
  .next (s.loadReg x (s.reg y))

/-- OR Vx, Vy (R174). -/
def execOrReg (x y : Nibble) (s : State) : Host.Outcome State Fault Refusal :=
  .next (s.loadReg x (s.reg x ||| s.reg y))

/-- AND Vx, Vy (R175). -/
def execAndReg (x y : Nibble) (s : State) : Host.Outcome State Fault Refusal :=
  .next (s.loadReg x (s.reg x &&& s.reg y))

/-- XOR Vx, Vy (R176). -/
def execXorReg (x y : Nibble) (s : State) : Host.Outcome State Fault Refusal :=
  .next (s.loadReg x (s.reg x ^^^ s.reg y))

/-- ADD Vx, Vy (R177): both operands are read before any write. -/
def execAddReg (x y : Nibble) (s : State) : Host.Outcome State Fault Refusal :=
  .next (s.resultThenFlag x (s.reg x + s.reg y) (carryFlag (s.reg x) (s.reg y)))

/-- SUB Vx, Vy (R178). -/
def execSubReg (x y : Nibble) (s : State) : Host.Outcome State Fault Refusal :=
  .next (s.resultThenFlag x (s.reg x - s.reg y) (noBorrowFlag (s.reg x) (s.reg y)))

/-- SUBN Vx, Vy (R180): the minuend is Vy. -/
def execSubn (x y : Nibble) (s : State) : Host.Outcome State Fault Refusal :=
  .next (s.resultThenFlag x (s.reg y - s.reg x) (noBorrowFlag (s.reg y) (s.reg x)))

/-- Step 1 of a shift: V[x] <- V[y] (R179, R181). -/
def State.shiftCopy (s : State) (x y : Nibble) : State := s.setReg x (s.reg y)

/-- SHR Vx, Vy (R179): three writes in order, each read seeing the writes before it (D8, log 11). -/
def execShr (x y : Nibble) (s : State) : Host.Outcome State Fault Refusal :=
  let s1 := s.shiftCopy x y
  let s2 := s1.setReg VF (shrFlag (s1.reg x))
  .next (s2.loadReg x (s2.reg x >>> 1))

/-- SHL Vx, Vy (R181): three writes in order, each read seeing the writes before it (D8, log 11). -/
def execShl (x y : Nibble) (s : State) : Host.Outcome State Fault Refusal :=
  let s1 := s.shiftCopy x y
  let s2 := s1.setReg VF (shlFlag (s1.reg x))
  .next (s2.loadReg x (s2.reg x <<< 1))

/-- RND Vx, byte: in.rnd AND kk (R182); in.rnd is a free input of the step (R39, U10, log 1). -/
def execRnd (x : Nibble) (kk : Byte) (s : State) : Host.Outcome State Fault Refusal :=
  .next (s.loadReg x (s.input.rnd &&& kk))

end Sys2Proof.Machine
end

