-- ==== Sys2Proof/Machine/ControlFlow.lean ====
section
/-!
DEFINITION. System, control-transfer and skip instructions (spec/41_system_control_flow.md R150 to R159).
-/
namespace Sys2Proof.Machine

/-- SYS addr: a no-op, its operand ignored (R150, R103). -/
def execSys (_nnn : Addr12) (s : State) : Host.Outcome State Fault Refusal :=
  .next s.advance

/-- RET (R151, R231). The popped slot keeps its value (D6, log 10). -/
def execRet (s : State) : Host.Outcome State Fault Refusal :=
  if s.sp = 0#4 then .next (s.raise (.stackUnderflow s.pc (encode .ret)))
  else .next ((s.setSp (s.sp - 1#4)).setPc (nextPc (s.slot s.sp)))

/-- JP addr (R152). -/
def execJp (nnn : Addr12) (s : State) : Host.Outcome State Fault Refusal :=
  .next (s.setPc (targetOf nnn))

/-- CALL addr (R153, R232): sp is incremented first, and the slot gets the address of the CALL itself (D5, D39, log 10). -/
def execCall (nnn : Addr12) (s : State) : Host.Outcome State Fault Refusal :=
  if s.sp = 15#4 then .next (s.raise (.stackOverflow s.pc (encode (.call nnn))))
  else .next (((s.setSp (s.sp + 1#4)).setSlot (s.sp + 1#4) s.pc).setPc (targetOf nnn))

/-- JP V0, addr: V0 whatever the x nibble is (R158; D10, log 12). -/
def execJpV0 (nnn : Addr12) (s : State) : Host.Outcome State Fault Refusal :=
  .next (s.setPc (targetOf nnn + zextByte (s.reg 0#4)))

/-- SE Vx, byte (R154). -/
def execSeImm (x : Nibble) (kk : Byte) (s : State) : Host.Outcome State Fault Refusal :=
  .next (s.skipIf (s.reg x == kk))

/-- SNE Vx, byte (R155). -/
def execSneImm (x : Nibble) (kk : Byte) (s : State) : Host.Outcome State Fault Refusal :=
  .next (s.skipIf (s.reg x != kk))

/-- SE Vx, Vy (R156). -/
def execSeReg (x y : Nibble) (s : State) : Host.Outcome State Fault Refusal :=
  .next (s.skipIf (s.reg x == s.reg y))

/-- SNE Vx, Vy (R157). -/
def execSneReg (x y : Nibble) (s : State) : Host.Outcome State Fault Refusal :=
  .next (s.skipIf (s.reg x != s.reg y))

end Sys2Proof.Machine
end

