-- ==== Sys2Proof/Machine/Display.lean ====
section
/-!
DEFINITION. Display instructions (spec/43_display.md R190 to R195).
-/
namespace Sys2Proof.Machine

/-- The framebuffer while a sprite is drawn, and whether a set pixel has been cleared so far. -/
abbrev Drawing := Framebuffer × Bool

/-- One pixel of R192's inner loop: row offset r, column offset c of a sprite row `b` with origin (x0, y0). -/
def drawPixel (x0 y0 b : Byte) (r c : Nat) (d : Drawing) : Drawing :=
  if spriteBit b c then
    (setPixel d.1 (spriteRow y0 r) (spriteCol x0 c) (!getPixel d.1 (spriteRow y0 r) (spriteCol x0 c)),
     d.2 || getPixel d.1 (spriteRow y0 r) (spriteCol x0 c))
  else d

/-- The first `k` columns of a sprite row, c = 0 .. k-1 in order. -/
def drawCols (x0 y0 b : Byte) (r k : Nat) (d : Drawing) : Drawing :=
  match k with
  | 0 => d
  | k + 1 => drawPixel x0 y0 b r k (drawCols x0 y0 b r k d)

/-- The first `k` rows of a sprite whose bytes stand at `base`, r = 0 .. k-1 in order, 8 pixels each. -/
def drawRows (m : Memory) (base : Nat) (x0 y0 : Byte) (k : Nat) (d : Drawing) : Drawing :=
  match k with
  | 0 => d
  | k + 1 => drawCols x0 y0 (m.read (base + k)) k 8 (drawRows m base x0 y0 k d)

/-- The highest address a DRW of n rows touches (R67, R192). -/
def drwTop (s : State) (n : Nibble) : Nat := effAddr s.I (n.toNat - 1)

/-- DRW's bound: n = 0 reads no memory (D31, log 13), else I + n - 1 must exist (R67, R192). -/
def drwInBounds (s : State) (n : Nibble) : Bool := n.toNat == 0 || inBounds (drwTop s n)

/-- The sprite XORed into the framebuffer and VF set, before the frame is emitted (R192). -/
def State.drawn (s : State) (x y n : Nibble) : State :=
  let d := drawRows s.mem s.I.toNat (s.reg x) (s.reg y) n.toNat (s.fb, false)
  (s.setFb d.1).setReg VF (collisionFlag d.2)

/-- CLS: every pixel 0, no frame (R191; D26, log 13). -/
def execCls (s : State) : Host.Outcome State Fault Refusal :=
  .next (s.setFb clearFb).advance

/-- DRW Vx, Vy, nibble (R192 to R195). A refused frame faults after fb and VF have changed (R237). -/
def execDrw (x y n : Nibble) (s : State) : Host.Outcome State Fault Refusal :=
  if drwInBounds s n then
    if s.input.sinkFault then .next ((s.drawn x y n).raise (.hostIoFault s.pc (some (encode (.drw x y n))) .render))
    else .next (s.drawn x y n).emitFrame.advance
  else .next (s.raise (.memoryBoundViolation s.pc (encode (.drw x y n)) (drwTop s n)))

end Sys2Proof.Machine
end

