-- ==== Sys2Proof/Machine/Keypad.lean ====
section
/-!
DEFINITION. Keypad instructions (spec/44_keypad.md R200 to R205).
-/
namespace Sys2Proof.Machine

/-- SKP Vx (R201): a match consumes the key and skips. -/
def execSkp (x : Nibble) (s : State) : Host.Outcome State Fault Refusal :=
  if s.keyMatches x then .next ((s.setKey none).skipIf true) else .next (s.skipIf false)

/-- SKNP Vx (R202): a match consumes the key and does not skip; every other case skips (D15, log 14). -/
def execSknp (x : Nibble) (s : State) : Host.Outcome State Fault Refusal :=
  if s.keyMatches x then .next ((s.setKey none).skipIf false) else .next (s.skipIf true)

/-- LD Vx, K (R203, R129): enters the wait; pc stays and no register is written in this cycle. R128 completes it
(`waitStep`, Machine/Cycle.lean). -/
def execLdVxKey (x : Nibble) (s : State) : Host.Outcome State Fault Refusal :=
  .next (s.setMode (.waitingForKey x))

end Sys2Proof.Machine
end

