-- ==== Sys2Proof/Machine/TimersMemory.lean ====
section
/-!
DEFINITION. Timer, index-register and memory-transfer instructions (spec/45_timers_index_memory.md R210 to R219).
-/
namespace Sys2Proof.Machine

/-- LD Vx, DT (R210). -/
def execLdVxDt (x : Nibble) (s : State) : Host.Outcome State Fault Refusal :=
  .next (s.setReg x s.DT).advance

/-- LD DT, Vx (R211). -/
def execLdDtVx (x : Nibble) (s : State) : Host.Outcome State Fault Refusal :=
  .next (s.setDT (s.reg x)).advance

/-- LD ST, Vx (R212). -/
def execLdStVx (x : Nibble) (s : State) : Host.Outcome State Fault Refusal :=
  .next (s.setST (s.reg x)).advance

/-- LD I, addr (R213; D30, log 12). -/
def execLdIndex (nnn : Addr12) (s : State) : Host.Outcome State Fault Refusal :=
  .next (s.setI (targetOf nnn)).advance

/-- ADD I, Vx: modulo 65536, no flag (R214; D11, log 12). -/
def execAddIndex (x : Nibble) (s : State) : Host.Outcome State Fault Refusal :=
  .next (s.setI (s.I + zextByte (s.reg x))).advance

/-- LD F, Vx (R215). -/
def execLdFont (x : Nibble) (s : State) : Host.Outcome State Fault Refusal :=
  .next (s.setI (glyphAddr (s.reg x))).advance

/-- LD B, Vx (R216): the whole range is checked before any byte is written. -/
def execLdBcd (x : Nibble) (s : State) : Host.Outcome State Fault Refusal :=
  if inBounds (effAddr s.I 2) then
    .next (((s.setByte (effAddr s.I 0) (hundreds (s.reg x))).setByte (effAddr s.I 1) (tens (s.reg x))).setByte
      (effAddr s.I 2) (units (s.reg x))).advance
  else .next (s.raise (.memoryBoundViolation s.pc (encode (.ldBcd x)) (effAddr s.I 2)))

/-- V0 to V(k-1) to memory from I, in ascending order (R217). -/
def State.dumpRegs (s : State) (k : Nat) : State :=
  match k with
  | 0 => s
  | k + 1 => (s.dumpRegs k).setByte (effAddr s.I k) (s.reg (BitVec.ofNat 4 k))

/-- Memory from I to V0 to V(k-1), in ascending order (R218). -/
def State.loadRegs (s : State) (k : Nat) : State :=
  match k with
  | 0 => s
  | k + 1 => (s.loadRegs k).setReg (BitVec.ofNat 4 k) (s.byteAt (effAddr s.I k))

/-- LD [I], Vx, RegDump (R217): x + 1 bytes; I is not changed (R219; D12, log 12). -/
def execRegDump (x : Nibble) (s : State) : Host.Outcome State Fault Refusal :=
  if inBounds (effAddr s.I x.toNat) then .next (s.dumpRegs (x.toNat + 1)).advance
  else .next (s.raise (.memoryBoundViolation s.pc (encode (.regDump x)) (effAddr s.I x.toNat)))

/-- LD Vx, [I], RegLoad (R218): x + 1 registers; I is not changed (R219; D12, log 12). -/
def execRegLoad (x : Nibble) (s : State) : Host.Outcome State Fault Refusal :=
  if inBounds (effAddr s.I x.toNat) then .next (s.loadRegs (x.toNat + 1)).advance
  else .next (s.raise (.memoryBoundViolation s.pc (encode (.regLoad x)) (effAddr s.I x.toNat)))

end Sys2Proof.Machine
end

