-- ==== Sys2Proof/Machine/Cycle.lean ====
section
/-!
DEFINITION. One executor step (spec/40_execution_cycle.md R122 to R129, R135): the cycle of mode Running and the sample of
mode WaitingForKey. The step's inputs `in` stand in `State.input` (`runEvent` puts them there).
-/
namespace Sys2Proof.Machine

/-- Both bytes at pc lie inside memory (R124; D4, log 15). -/
def State.fetchable (s : State) : Bool := decide (s.pc.toNat ≤ 0xFFE)

/-- A word that decodes to no instruction: pc <- p + 2 and nothing else (spec/30_encoding.md R101, spec/60_exceptions.md
R240). -/
def State.skipUndecoded (s : State) : State := s.advance

/-- Decode, execute and advance of a fetched word (R125). -/
def runWord (w : Word) (s : State) : Host.Outcome State Fault Refusal :=
  match decode w with
  | .ok i => exec i s
  | .error _ => .next s.skipUndecoded

/-- Fetch and what follows it (R124, R125). -/
def fetchAndRun (s : State) : Host.Outcome State Fault Refusal :=
  if s.fetchable then runWord (s.wordAt s.pc.toNat) s else .next (s.raise (.fetchOutOfBounds s.pc))

/-- One cycle in mode Running: the poll phase first (R123), then fetch; the order of R239. -/
def runCycle (s : State) : Host.Outcome State Fault Refusal :=
  match s.input.keyEvent with
  | .quit => .next s.stop
  | .ioFault => .next (s.raise (.hostIoFault s.pc none .poll))
  | .key k => fetchAndRun (s.setKey (some k))
  | .noEvent => fetchAndRun s

/-- One sample in mode WaitingForKey(x) (R128): `key` is neither read nor written (D16, log 14). -/
def waitStep (x : Nibble) (s : State) : Host.Outcome State Fault Refusal :=
  match s.input.keyEvent with
  | .key k => .next (((s.setReg x (k.setWidth 8)).advance).setMode .running)
  | .quit => .next s.stop
  | .ioFault => .next (s.raise (.hostIoFault s.pc none .wait))
  | .noEvent => .next s

/-- `ExecStep(S, in)` (R135), and no step of either agent from a terminal mode (R121). -/
def execStep (s : State) : Host.Outcome State Fault Refusal :=
  match s.mode with
  | .running => runCycle s
  | .waitingForKey x => waitStep x s
  | .stopped => .fault .terminalStopped
  | .faulted f => .fault (.terminalFaulted f)

/-- The step of the agent that the environment has chosen (R121). -/
def runEvent (e : EnvEvent) (s : State) : Host.Outcome State Fault Refusal :=
  match e with
  | .tick => .next s.tick
  | .exec input => execStep (s.setInput input)

/-- One step of the machine (R121): none from a terminal mode; else the environment's next choice. -/
def machineStep (s : State) : Host.Outcome State Fault Refusal :=
  match s.mode with
  | .stopped => .fault .terminalStopped
  | .faulted f => .fault (.terminalFaulted f)
  | .running => runEvent s.nextEvent s.takeEvent
  | .waitingForKey _ => runEvent s.nextEvent s.takeEvent

end Sys2Proof.Machine
end

