-- ==== Sys2Proof/Machine/Step.lean ====
section
/-!
DEFINITION. The step of the machine (spec/40_execution_cycle.md R121), and the placing of an instruction for the very next
step (log 7). Both only call Machine/Cycle.lean and Machine/Boot.lean.
-/
namespace Sys2Proof.Machine

/-- One atomic step of one of the two agents, the one the environment chooses (R120, R121). -/
def step (s : State) : Host.Outcome State Fault Refusal := machineStep s

/-- `s` with the instruction whose bits are `w` (numbered as spec/opcode_table.json numbers them) where the very next step
fetches and runs it. -/
def State.withFetchWord (s : State) (nbits w : Nat) : State :=
  Sys2Proof.Machine.placeWord s (BitVec.ofNat 16 (w % 2 ^ nbits))

end Sys2Proof.Machine
end

