-- ==== Sys2Proof/WellFormed.lean ====
section
/-!
DEFINITION. Which terms of `Instr` some word stands for. Operand ranges hold by their types (spec/30_encoding.md R92);
the one check left is R95: the words 0x00E0 and 0x00EE are CLS and RET, so SYS never has nnn = 0x0E0 or 0x0EE.
-/
namespace Sys2Proof

/-- R95: every word of family 0 other than 0x00E0 and 0x00EE is SYS. -/
def sysOperandOk (nnn : Addr12) : Bool :=
  nnn != 0x0E0#12 && nnn != 0x0EE#12

/-- The instruction is the decoding of some word (R93, R95). Written constructor by constructor, with no wildcard. -/
def Instr.wellFormed (i : Instr) : Bool :=
  match i with
  | .sys nnn => sysOperandOk nnn
  | .cls | .ret | .jp _ | .call _ | .seImm _ _ | .sneImm _ _ | .seReg _ _ | .ldImm _ _ | .addImm _ _
  | .ldReg _ _ | .orReg _ _ | .andReg _ _ | .xorReg _ _ | .addReg _ _ | .subReg _ _ | .shr _ _ | .subn _ _
  | .shl _ _ | .sneReg _ _ | .ldIndex _ | .jpV0 _ | .rnd _ _ | .drw _ _ _ | .skp _ | .sknp _ | .ldVxDt _
  | .ldVxKey _ | .ldDtVx _ | .ldStVx _ | .addIndex _ | .ldFont _ | .ldBcd _ | .regDump _ | .regLoad _ => true

end Sys2Proof
end

