-- ==== Sys2Proof/Safety.lean ====
section
/-!
DEFINITION. The terms the statements use: parts of the state and what is left unchanged, fault entry, safe and terminal
states, the sprite as a picture, and the invariants.
-/
namespace Sys2Proof.Machine

/-- The separately owned parts of the state (spec/10_state.md R20), and the model's own fields. -/
inductive Part where
  | pc
  | reg (x : Nibble)
  | byte (a : Nat)
  | index
  | stackPointer
  | slot (j : Nibble)
  | pixels
  | delay
  | sound
  | keyCell
  | runMode
  /-- what has been handed to the environment -/
  | outputLog
  /-- the environment's choices and inputs: `input`, `pending`, `envCount` -/
  | environment
  deriving DecidableEq, Repr

/-- The part is the same in both states. -/
def Part.Same (p : Part) (s t : State) : Prop :=
  match p with
  | .pc => t.pc = s.pc
  | .reg x => t.reg x = s.reg x
  | .byte a => t.byteAt a = s.byteAt a
  | .index => t.I = s.I
  | .stackPointer => t.sp = s.sp
  | .slot j => t.slot j = s.slot j
  | .pixels => t.fb = s.fb
  | .delay => t.DT = s.DT
  | .sound => t.ST = s.ST
  | .keyCell => t.key = s.key
  | .runMode => t.mode = s.mode
  | .outputLog => t.outputs = s.outputs
  | .environment => t.input = s.input ∧ t.pending = s.pending ∧ t.envCount = s.envCount

/-- FRAME: everything but the listed parts is unchanged, every register, flag, stack slot and byte of memory included
("What a rule does not mention is unchanged", spec/41_system_control_flow.md). -/
def SameBut (changed : List Part) (s t : State) : Prop := ∀ p : Part, p ∉ changed → p.Same s t

/-- The bytes at base, base + 1, ..., base + k - 1, as parts. -/
def byteParts (base k : Nat) : List Part := (List.range k).map (fun i => Part.byte (base + i))

/-- V0 to V(k-1), as parts. -/
def regParts (k : Nat) : List Part := (List.range k).map (fun i => Part.reg (BitVec.ofNat 4 i))

/-- `t` is `s` after `raise f` (spec/60_exceptions.md R236): the mode and the fault report, and nothing else. -/
def Raised (f : FatalFault) (s t : State) : Prop :=
  t.mode = .faulted f ∧ t.outputs = .faultReport f :: s.outputs ∧ SameBut [.runMode, .outputLog] s t

/-- Terminal modes (spec/40_execution_cycle.md R121). -/
def Terminal (s : State) : Prop := s.mode = .stopped ∨ ∃ f, s.mode = .faulted f

/-- A safe run never comes to a state that is not `Safe`: no fatal fault has been raised. -/
def Safe (s : State) : Prop := ∀ f, s.mode ≠ .faulted f

/-- What the poll phase leaves in the key cell (R123): a key event overwrites it. -/
def polledKey (s : State) (e : KeyEvent) : Option Nibble :=
  match e with
  | .key k => some k
  | .noEvent | .quit | .ioFault => s.key

/-- The environment's next choice is the executor with these inputs, in mode Running (R121, R122). -/
abbrev CycleOffered (s : State) (input : StepInput) : Prop := s.mode = .running ∧ s.nextEvent = .exec input

/-- A cycle in mode Running that gets past its poll phase to the fetch (R122, R123). -/
abbrev CycleStarts (s : State) (input : StepInput) : Prop :=
  CycleOffered s input ∧ input.keyEvent ≠ .quit ∧ input.keyEvent ≠ .ioFault

/-- The environment's choice has been used up: a pending one, or one more of the free ones (log 1). -/
abbrev EventTaken (s t : State) : Prop :=
  t.pending = s.pending.tail ∧ t.envCount = if s.pending = [] then s.envCount + 1 else s.envCount

/-- The bits set in the sprite of n rows at (x0, y0) whose bytes stand at `base`, as a picture on the torus
(spec/43_display.md R190, R192, R195): the pixel (r, c) lies `dr` rows below and `dc` columns right of the origin. -/
def spriteCovers (s : State) (base : Nat) (x0 y0 : Byte) (n : Nat) (r : Fin 32) (c : Fin 64) : Bool :=
  let dr := (r.val + 256 - y0.toNat) % 32
  let dc := (c.val + 256 - x0.toNat) % 64
  decide (dr < n) && decide (dc < 8) && (s.byteAt (base + dr)).getLsbD (7 - dc)

/-- The registers an instruction may write: its destination, and VF where R22 lists the instruction. -/
def Instr.regsWritten (i : Instr) : List Nibble :=
  match i with
  | .ldImm x _ | .addImm x _ | .ldReg x _ | .orReg x _ | .andReg x _ | .xorReg x _ | .rnd x _ | .ldVxDt x => [x]
  | .addReg x _ | .subReg x _ | .shr x _ | .subn x _ | .shl x _ => [x, VF]
  | .drw _ _ _ => [VF]
  | .regLoad x => (List.range (x.toNat + 1)).map (BitVec.ofNat 4)
  | .sys _ | .cls | .ret | .jp _ | .call _ | .seImm _ _ | .sneImm _ _ | .seReg _ _ | .sneReg _ _ | .ldIndex _ | .jpV0 _
  | .skp _ | .sknp _ | .ldVxKey _ | .ldDtVx _ | .ldStVx _ | .addIndex _ | .ldFont _ | .ldBcd _ | .regDump _ => []

/-! ### Invariants -/

/-- Memory keeps its canonical form, and every listed address exists (R60). -/
def MemCanonical (s : State) : Prop := s.mem.wf

/-- No reachable pc needs the wrap at 65536 (R127): the pc is at most 0x10FE, every return address is the address of a
fetched word, and so is the pc while a key is waited for. -/
def PcBounded (s : State) : Prop :=
  s.pc.toNat ≤ 0x10FE ∧ (∀ j : Nibble, (s.slot j).toNat ≤ 0xFFE)
    ∧ ∀ x, s.mode = .waitingForKey x → s.pc.toNat ≤ 0xFFE

/-- While a key is waited for, the word at pc is the `Fx0A` with the latched x (R36). -/
def WaitWordAtPc (s : State) : Prop :=
  ∀ x, s.mode = .waitingForKey x → decode (s.wordAt s.pc.toNat) = .ok (.ldVxKey x)

end Sys2Proof.Machine
end

