-- ==== Sys2Proof/Certificates/Slice0/Obligations.lean ====
section
/-!
DEFINITION. The statements for the provers. Where a statement rests on a decision the spec marks as its own (D<n> of
spec/92_eei_decisions.md) or on a choice of the model (log n), its docstring says so, and its basis is 'derived'.
-/
open Sys2Proof Sys2Proof.Machine

/-! ### Encoding -/

/-- R93, R94, R95: decoding the word of a well-formed instruction gives it back, with every operand. The bit patterns are
the spec's decision D28 (log 9). -/
def Obligations.DecodeOfEncode : Prop :=
  ∀ i : Instr, i.wellFormed = true → decode (encode i) = .ok i

/-- R93, R94: a word that decodes is the word of its instruction, so no bit of a decoding word is dropped, and the word a
fault records is the word that was fetched (log 16). Rests on D28 (log 9). -/
def Obligations.EncodeOfDecode : Prop :=
  ∀ (w : Word) (i : Instr), decode w = .ok i → encode i = w ∧ i.wellFormed = true

/-- R94, R101: the decoder follows the table of masks and matches: the row of the instruction read selects the word, and a
word is read exactly when some row selects it. Rests on D28 (log 9). -/
def Obligations.DecodeFollowsOpcodeTable : Prop :=
  ∀ w : Word,
    (∀ i, decode w = .ok i → w &&& i.rowMask = i.rowMatch)
    ∧ ((∃ i, decode w = .ok i) ↔ ∃ row ∈ opcodeRows, w &&& row.1 = row.2)

/-- R95: family 0 is CLS, RET and otherwise SYS, and never fails. -/
def Obligations.FamilyZeroAlwaysDecodes : Prop :=
  ∀ w : Word, w.extractLsb' 12 4 = 0#4 →
    decode w = .ok (if w = 0x00E0#16 then .cls else if w = 0x00EE#16 then .ret else .sys (w.extractLsb' 0 12))

/-- R102: exactly the listed words are decode failures. R102 is the spec's own derivation, and 9xyN is its decision D36. -/
def Obligations.FailingWordsAreExactlyTheListed : Prop :=
  ∀ w : Word, (∃ e, decode w = .error e) ↔
    (w.extractLsb' 12 4 = 5#4 ∧ w.extractLsb' 0 4 ≠ 0#4)
    ∨ (w.extractLsb' 12 4 = 8#4 ∧ w.extractLsb' 0 4 ∈ [0x8#4, 0x9#4, 0xA#4, 0xB#4, 0xC#4, 0xD#4, 0xF#4])
    ∨ (w.extractLsb' 12 4 = 9#4 ∧ w.extractLsb' 0 4 ≠ 0#4)
    ∨ (w.extractLsb' 12 4 = 0xE#4 ∧ w.extractLsb' 0 8 ∉ [0x9E#8, 0xA1#8])
    ∨ (w.extractLsb' 12 4 = 0xF#4 ∧ w.extractLsb' 0 8 ∉
        [0x07#8, 0x0A#8, 0x15#8, 0x18#8, 0x1E#8, 0x29#8, 0x33#8, 0x55#8, 0x65#8])

/-- Words of the spec's examples, one or more of each family, read as the spec reads them (R94, R99; D28). -/
def Obligations.SpecExampleWordsDecode : Prop :=
  decode 0x8AB4#16 = .ok (.addReg 0xA#4 0xB#4) ∧ decode 0xD123#16 = .ok (.drw 1#4 2#4 3#4)
  ∧ decode 0x5AB1#16 = .error (.family5 1#4) ∧ decode 0x00E0#16 = .ok .cls ∧ decode 0x1200#16 = .ok (.jp 0x200#12)
  ∧ decode 0x332A#16 = .ok (.seImm 3#4 0x2A#8) ∧ decode 0xE19E#16 = .ok (.skp 1#4) ∧ decode 0xF255#16 = .ok (.regDump 2#4)

/-! ### The machine's steps -/

/-- R122, R124, R125: a cycle that gets past its poll runs the instruction that the two bytes at pc decode to, and around
it takes the environment's choice, latches the inputs and records a key event (R123). The byte order is D1 (log 8). -/
def Obligations.StepRunsTheDecodedInstruction : Prop :=
  ∀ (s : State) (input : StepInput) (i : Instr), CycleStarts s input → s.pc.toNat ≤ 0xFFE →
    decode (s.byteAt s.pc.toNat ++ s.byteAt (s.pc.toNat + 1)) = .ok i →
    ∃ s' : State, step s = exec i s' ∧ SameBut [.environment, .keyCell] s s' ∧ s'.input = input
      ∧ s'.key = polledKey s input.keyEvent ∧ EventTaken s s'

/-- R101, R240: a word that decodes to no instruction raises nothing and is executed as a 2-byte no-op. That pc advances is
the spec's decision D27 (log 21), the byte order D1 (log 8). -/
def Obligations.UndecodedWordIsTwoByteNoOp : Prop :=
  ∀ (s : State) (input : StepInput) (e : DecodeFailure), CycleStarts s input → s.pc.toNat ≤ 0xFFE →
    decode (s.byteAt s.pc.toNat ++ s.byteAt (s.pc.toNat + 1)) = .error e →
    ∃ t : State, step s = .next t ∧ t.pc = s.pc + 2#16 ∧ t.key = polledKey s input.keyEvent
      ∧ SameBut [.pc, .environment, .keyCell] s t

/-- R123, R239: Quit and a failing poll end the cycle before the fetch, whatever stands at pc, so the record of a failing
poll holds no word (R236, log 22). The order, the terminal modes and the input values are the spec's decisions D18, D20,
D32, D33 (log 3, log 19). -/
def Obligations.QuitOrPollFailureEndsTheCycle : Prop :=
  ∀ (s : State) (input : StepInput), CycleOffered s input →
    (input.keyEvent = .quit → ∃ t : State, step s = .next t ∧ t.mode = .stopped
      ∧ t.outputs = .stopped :: s.outputs ∧ SameBut [.runMode, .outputLog, .environment] s t)
    ∧ (input.keyEvent = .ioFault → ∃ t : State, step s = .next t ∧ t.mode = .faulted (.hostIoFault s.pc none .poll)
      ∧ t.outputs = .faultReport (.hostIoFault s.pc none .poll) :: s.outputs
      ∧ SameBut [.runMode, .outputLog, .environment] s t)

/-- R124, R234: a fetch past the end of memory is fatal, with the poll's key write standing (R237). The spec's decision D4
(log 15). -/
def Obligations.FetchPastMemoryFaults : Prop :=
  ∀ (s : State) (input : StepInput), CycleStarts s input → s.pc.toNat > 0xFFE →
    ∃ t : State, step s = .next t ∧ t.mode = .faulted (.fetchOutOfBounds s.pc)
      ∧ t.outputs = .faultReport (.fetchOutOfBounds s.pc) :: s.outputs ∧ t.key = polledKey s input.keyEvent
      ∧ SameBut [.runMode, .outputLog, .environment, .keyCell] s t

/-- R128: one sample of the input source in the wait, for each of its four values. That `key` is untouched is the spec's
decision D16 (log 14); that the record of a failure here holds no word is read from R236 and R248 (log 22). -/
def Obligations.KeyWaitSample : Prop :=
  ∀ (s : State) (x : Nibble) (input : StepInput), s.mode = .waitingForKey x → s.nextEvent = .exec input →
    ∃ t : State, step s = .next t
      ∧ (∀ k, input.keyEvent = .key k → (t.reg x).toNat = k.toNat ∧ t.pc = s.pc + 2#16 ∧ t.mode = .running
          ∧ SameBut [.reg x, .pc, .runMode, .environment] s t)
      ∧ (input.keyEvent = .quit → t.mode = .stopped ∧ t.outputs = .stopped :: s.outputs
          ∧ SameBut [.runMode, .outputLog, .environment] s t)
      ∧ (input.keyEvent = .ioFault → t.mode = .faulted (.hostIoFault s.pc none .wait)
          ∧ t.outputs = .faultReport (.hostIoFault s.pc none .wait) :: s.outputs
          ∧ SameBut [.runMode, .outputLog, .environment] s t)
      ∧ (input.keyEvent = .noEvent → SameBut [.environment] s t)

/-- R130: one tick decrements both timers with saturation at 0, in Running and in the wait alike, and nothing else. -/
def Obligations.TickDecrementsBothTimers : Prop :=
  ∀ s : State, (s.mode = .running ∨ ∃ x, s.mode = .waitingForKey x) → s.nextEvent = .tick →
    ∃ t : State, step s = .next t ∧ t.DT.toNat = s.DT.toNat - 1 ∧ t.ST.toNat = s.ST.toNat - 1
      ∧ SameBut [.delay, .sound, .environment] s t

/-- R121, R236: no step of either agent from Stopped or Faulted. The terminal modes are the spec's decision D20, and that
`step` answers a fault of its own there is the model's (log 3). -/
def Obligations.TerminalModesHaveNoStep : Prop :=
  ∀ s : State, (s.mode = .stopped → step s = .fault .terminalStopped)
    ∧ ∀ f, s.mode = .faulted f → step s = .fault (.terminalFaulted f)

/-- R121, R125, R135: in every other mode there is a next state: no instruction, word or input stops the model. -/
def Obligations.EveryLiveStateHasANextState : Prop :=
  ∀ s : State, ¬ Terminal s → ∃ t : State, step s = .next t

/-! ### Reset -/

/-- R38, R260: the registers after reset. Those of pc, I, sp, DT, ST, key and mode are the spec's decisions D2 and D3 (log 4). -/
def Obligations.ResetRegisters : Prop :=
  (∀ x, State.reset.reg x = 0#8) ∧ (∀ j, State.reset.slot j = 0#16) ∧ (∀ r c, State.reset.pixel r c = false)
  ∧ State.reset.pc = 0x200#16 ∧ State.reset.I = 0#16 ∧ State.reset.sp = 0#4 ∧ State.reset.DT = 0#8
  ∧ State.reset.ST = 0#8 ∧ State.reset.key = none ∧ State.reset.mode = .running

/-- R38, R261: memory after reset with the empty ROM: the font, and 0 above it. The bytes are the spec's decision D29, the
zeros D3 (log 6). That the addresses above 0xFFF, where R60 gives no memory, read 0 too is the model's choice (log 20). -/
def Obligations.ResetMemoryHoldsTheFont : Prop :=
  (List.range 80).map State.reset.byteAt =
    [0xF0, 0x90, 0x90, 0x90, 0xF0, 0x20, 0x60, 0x20, 0x20, 0x70, 0xF0, 0x10, 0xF0, 0x80, 0xF0, 0xF0, 0x10, 0xF0, 0x10,
     0xF0, 0x90, 0x90, 0xF0, 0x10, 0x10, 0xF0, 0x80, 0xF0, 0x10, 0xF0, 0xF0, 0x80, 0xF0, 0x90, 0xF0, 0xF0, 0x10, 0x20,
     0x40, 0x40, 0xF0, 0x90, 0xF0, 0x90, 0xF0, 0xF0, 0x90, 0xF0, 0x10, 0xF0, 0xF0, 0x90, 0xF0, 0x90, 0x90, 0xE0, 0x90,
     0xE0, 0x90, 0xE0, 0xF0, 0x80, 0x80, 0x80, 0xF0, 0xE0, 0x90, 0x90, 0x90, 0xE0, 0xF0, 0x80, 0xF0, 0x80, 0xF0, 0xF0,
     0x80, 0xF0, 0x80, 0x80]
  ∧ ∀ a, 80 ≤ a → State.reset.byteAt a = 0#8

/-- R262, R260: the ROM is copied byte by byte from 0x200 and nothing else is touched; a ROM of more than 3584 bytes has no
initial state (the spec's decision D25, log 7). -/
def Obligations.RomIsCopiedVerbatim : Prop :=
  ∀ rom : List Byte,
    (rom.length ≤ 3584 → ∃ t : State, resetRom rom = some t ∧ (∀ n (h : n < rom.length), t.byteAt (0x200 + n) = rom[n])
      ∧ SameBut (byteParts 0x200 rom.length) State.reset t)
    ∧ (3584 < rom.length → resetRom rom = none)

/-! ### System, control transfer, skips -/

/-- R150: SYS only advances pc, whatever its operand. -/
def Obligations.SysOnlyAdvances : Prop :=
  ∀ (s : State) (nnn : Addr12), ∃ t : State, exec (.sys nnn) s = .next t ∧ t.pc = s.pc + 2#16 ∧ SameBut [.pc] s t

/-- R151: RET on a stack that is not empty. That the popped slot keeps its value is the spec's decision D6, that the slot
holds the CALL's own address D39 (log 10). -/
def Obligations.RetPopsTheStack : Prop :=
  ∀ s : State, s.sp ≠ 0#4 → ∃ t : State, exec .ret s = .next t ∧ t.sp.toNat + 1 = s.sp.toNat
    ∧ t.pc = s.slot s.sp + 2#16 ∧ SameBut [.stackPointer, .pc] s t

/-- R231: StackUnderflow is raised by RET exactly when sp = 0; sp and pc are not written. -/
def Obligations.RetUnderflowsExactlyWhenEmpty : Prop :=
  ∀ s : State, (s.sp = 0#4 → ∃ t : State, exec .ret s = .next t ∧ Raised (.stackUnderflow s.pc 0x00EE#16) s t)
    ∧ (s.sp ≠ 0#4 → ∀ t : State, exec .ret s = .next t → t.mode = s.mode)

/-- R152: JP. -/
def Obligations.JpSetsPc : Prop :=
  ∀ (s : State) (nnn : Addr12), ∃ t : State, exec (.jp nnn) s = .next t ∧ t.pc.toNat = nnn.toNat ∧ SameBut [.pc] s t

/-- R153: CALL below the depth limit. The depth is the spec's decision D5, the pushed value D39 (log 10). -/
def Obligations.CallPushesItsOwnAddress : Prop :=
  ∀ (s : State) (nnn : Addr12), s.sp ≠ 15#4 → ∃ t : State, exec (.call nnn) s = .next t
    ∧ t.sp.toNat = s.sp.toNat + 1 ∧ t.slot t.sp = s.pc ∧ t.pc.toNat = nnn.toNat
    ∧ SameBut [.stackPointer, .slot (s.sp + 1#4), .pc] s t

/-- R232: StackOverflow is raised by CALL exactly when sp = 15, and nothing is pushed. The spec's decision D5 (log 10). -/
def Obligations.CallOverflowsExactlyAtFifteen : Prop :=
  ∀ (s : State) (nnn : Addr12),
    (s.sp = 15#4 → ∃ t : State, exec (.call nnn) s = .next t ∧ Raised (.stackOverflow s.pc (0x2#4 ++ nnn)) s t)
    ∧ (s.sp ≠ 15#4 → ∀ t : State, exec (.call nnn) s = .next t → t.mode = s.mode)

/-- S6 of spec/95_test_vectors.md, R151, R153: a CALL and the RET that answers it come back to the word after the CALL, with
the stack pointer as it was and no register or memory byte changed. Rests on D5, D6, D39 (log 10). -/
def Obligations.RetAnswersCall : Prop :=
  ∀ (s t u : State) (nnn : Addr12), s.sp ≠ 15#4 → exec (.call nnn) s = .next t → SameBut [.pc] t u →
    ∃ v : State, exec .ret u = .next v ∧ v.pc = s.pc + 2#16 ∧ v.sp = s.sp
      ∧ SameBut [.pc, .slot (s.sp + 1#4)] s v

/-- R158: JP V0, addr adds V0 and never wraps (D10, log 12). -/
def Obligations.JpV0AddsV0 : Prop :=
  ∀ (s : State) (nnn : Addr12), ∃ t : State, exec (.jpV0 nnn) s = .next t
    ∧ t.pc.toNat = nnn.toNat + (s.reg 0#4).toNat ∧ SameBut [.pc] s t

/-- R154 to R157: the four skips on register values. Which pattern has which sense is from general knowledge (G4 of
spec/93_implementation_defined.md, log 9). -/
def Obligations.SkipsOnRegisterValues : Prop :=
  (∀ (s : State) (x : Nibble) (kk : Byte), ∃ t : State, exec (.seImm x kk) s = .next t
    ∧ t.pc = s.pc + (if s.reg x = kk then 4#16 else 2#16) ∧ SameBut [.pc] s t)
  ∧ (∀ (s : State) (x : Nibble) (kk : Byte), ∃ t : State, exec (.sneImm x kk) s = .next t
    ∧ t.pc = s.pc + (if s.reg x = kk then 2#16 else 4#16) ∧ SameBut [.pc] s t)
  ∧ (∀ (s : State) (x y : Nibble), ∃ t : State, exec (.seReg x y) s = .next t
    ∧ t.pc = s.pc + (if s.reg x = s.reg y then 4#16 else 2#16) ∧ SameBut [.pc] s t)
  ∧ (∀ (s : State) (x y : Nibble), ∃ t : State, exec (.sneReg x y) s = .next t
    ∧ t.pc = s.pc + (if s.reg x = s.reg y then 2#16 else 4#16) ∧ SameBut [.pc] s t)

/-! ### Loads, ALU, random -/

/-- R171 to R173: the loads and the immediate add, which wraps and writes no flag. The spec's decisions D9 and D30 (log 12). -/
def Obligations.LoadsAndImmediateAdd : Prop :=
  (∀ (s : State) (x : Nibble) (kk : Byte), ∃ t : State, exec (.ldImm x kk) s = .next t
    ∧ t.reg x = kk ∧ t.pc = s.pc + 2#16 ∧ SameBut [.reg x, .pc] s t)
  ∧ (∀ (s : State) (x : Nibble) (kk : Byte), ∃ t : State, exec (.addImm x kk) s = .next t
    ∧ (t.reg x).toNat = ((s.reg x).toNat + kk.toNat) % 256 ∧ t.pc = s.pc + 2#16 ∧ SameBut [.reg x, .pc] s t)
  ∧ (∀ (s : State) (x y : Nibble), ∃ t : State, exec (.ldReg x y) s = .next t
    ∧ t.reg x = s.reg y ∧ t.pc = s.pc + 2#16 ∧ SameBut [.reg x, .pc] s t)

/-- R174 to R176: OR, AND, XOR, bit by bit, with no flag: VF too is unchanged unless it is the destination. -/
def Obligations.BitwiseOperations : Prop :=
  (∀ (s : State) (x y : Nibble), ∃ t : State, exec (.orReg x y) s = .next t
    ∧ (∀ n, (t.reg x).getLsbD n = ((s.reg x).getLsbD n || (s.reg y).getLsbD n))
    ∧ t.pc = s.pc + 2#16 ∧ SameBut [.reg x, .pc] s t)
  ∧ (∀ (s : State) (x y : Nibble), ∃ t : State, exec (.andReg x y) s = .next t
    ∧ (∀ n, (t.reg x).getLsbD n = ((s.reg x).getLsbD n && (s.reg y).getLsbD n))
    ∧ t.pc = s.pc + 2#16 ∧ SameBut [.reg x, .pc] s t)
  ∧ (∀ (s : State) (x y : Nibble), ∃ t : State, exec (.xorReg x y) s = .next t
    ∧ (∀ n, (t.reg x).getLsbD n = ((s.reg x).getLsbD n ^^ (s.reg y).getLsbD n))
    ∧ t.pc = s.pc + 2#16 ∧ SameBut [.reg x, .pc] s t)

/-- R177, R183: ADD: the carry is always what VF ends as, and with another destination result and carry together are the
exact sum. That the flag is written last is the spec's decision D7 (log 11). -/
def Obligations.AddSumAndCarry : Prop :=
  ∀ (s : State) (x y : Nibble), ∃ t : State, exec (.addReg x y) s = .next t
    ∧ t.reg VF = (if (s.reg x).toNat + (s.reg y).toNat > 255 then 1#8 else 0#8)
    ∧ (x ≠ VF → (t.reg x).toNat + 256 * (t.reg VF).toNat = (s.reg x).toNat + (s.reg y).toNat)
    ∧ t.pc = s.pc + 2#16 ∧ SameBut [.reg x, .reg VF, .pc] s t

/-- R178, R180, R183: SUB and SUBN: VF ends as 1 exactly when there is no borrow, and with another destination the result
is the difference modulo 256. That the flag is written last is the spec's decision D7 (log 11). -/
def Obligations.SubtractAndBorrow : Prop :=
  (∀ (s : State) (x y : Nibble), ∃ t : State, exec (.subReg x y) s = .next t
    ∧ t.reg VF = (if (s.reg x).toNat ≥ (s.reg y).toNat then 1#8 else 0#8)
    ∧ (x ≠ VF → (t.reg x).toNat + (s.reg y).toNat = (s.reg x).toNat + 256 * (1 - (t.reg VF).toNat))
    ∧ t.pc = s.pc + 2#16 ∧ SameBut [.reg x, .reg VF, .pc] s t)
  ∧ (∀ (s : State) (x y : Nibble), ∃ t : State, exec (.subn x y) s = .next t
    ∧ t.reg VF = (if (s.reg y).toNat ≥ (s.reg x).toNat then 1#8 else 0#8)
    ∧ (x ≠ VF → (t.reg x).toNat + (s.reg x).toNat = (s.reg y).toNat + 256 * (1 - (t.reg VF).toNat))
    ∧ t.pc = s.pc + 2#16 ∧ SameBut [.reg x, .reg VF, .pc] s t)

/-- R179, R181, R183: the shifts of Vy into Vx, the bit shifted out in VF; with destination VF the third write wins, so VF
ends as 0 (SHR) or twice bit 7 (SHL). The three in-place steps are the spec's decision D8 (log 11). -/
def Obligations.ShiftsOfVy : Prop :=
  (∀ (s : State) (x y : Nibble), ∃ t : State, exec (.shr x y) s = .next t
    ∧ (x ≠ VF → 2 * (t.reg x).toNat + (t.reg VF).toNat = (s.reg y).toNat ∧ (t.reg VF).toNat = (s.reg y).toNat % 2)
    ∧ (x = VF → t.reg VF = 0#8)
    ∧ t.pc = s.pc + 2#16 ∧ SameBut [.reg x, .reg VF, .pc] s t)
  ∧ (∀ (s : State) (x y : Nibble), ∃ t : State, exec (.shl x y) s = .next t
    ∧ (x ≠ VF → (t.reg x).toNat + 256 * (t.reg VF).toNat = 2 * (s.reg y).toNat
        ∧ (t.reg VF).toNat = (s.reg y).toNat / 128)
    ∧ (x = VF → (t.reg VF).toNat = 2 * ((s.reg y).toNat / 128))
    ∧ t.pc = s.pc + 2#16 ∧ SameBut [.reg x, .reg VF, .pc] s t)

/-- R182: RND: the byte drawn for this step AND the mask, whatever byte is drawn. -/
def Obligations.RndMasksTheDrawnByte : Prop :=
  ∀ (s : State) (x : Nibble) (kk : Byte), ∃ t : State, exec (.rnd x kk) s = .next t
    ∧ t.reg x = s.input.rnd &&& kk ∧ t.pc = s.pc + 2#16 ∧ SameBut [.reg x, .pc] s t

/-! ### Display -/

/-- R191: CLS clears every pixel, writes no flag and emits no frame (the last is the spec's decision D26, log 13). -/
def Obligations.ClsClearsWithoutAFrame : Prop :=
  ∀ s : State, ∃ t : State, exec .cls s = .next t ∧ (∀ r c, t.pixel r c = false) ∧ t.pc = s.pc + 2#16
    ∧ SameBut [.pixels, .pc] s t

/-- R192, R190, R193: DRW within bounds and with a frame that is accepted: every pixel is XORed with the sprite as a picture
on the torus, VF says whether a set pixel was cleared, one frame goes out, I stays. Read order, bit order and n = 0 are the
spec's decisions D14 and D31 (log 13). -/
def Obligations.DrwXorsTheSprite : Prop :=
  ∀ (s : State) (x y n : Nibble), (n = 0#4 ∨ s.I.toNat + n.toNat ≤ 0x1000) → s.input.sinkFault = false →
    ∃ t : State, exec (.drw x y n) s = .next t
      ∧ (∀ r c, t.pixel r c = (s.pixel r c ^^ spriteCovers s s.I.toNat (s.reg x) (s.reg y) n.toNat r c))
      ∧ (t.reg VF = 0#8 ∨ t.reg VF = 1#8)
      ∧ (t.reg VF = 1#8 ↔ ∃ r c, s.pixel r c = true ∧ t.pixel r c = false)
      ∧ t.outputs = .frame t.fb :: s.outputs ∧ t.pc = s.pc + 2#16
      ∧ SameBut [.pixels, .reg VF, .outputLog, .pc] s t

/-- R192's corner case: drawing the same sprite twice at the same place restores the framebuffer; and on a clear screen
the first DRW has no collision, the second one if the sprite has a set bit. x and y are not F, since the first DRW
overwrites VF (D14, log 13). -/
def Obligations.DrawingTwiceRestoresTheScreen : Prop :=
  ∀ (s t u : State) (x y n : Nibble), x ≠ VF → y ≠ VF → (n = 0#4 ∨ s.I.toNat + n.toNat ≤ 0x1000) →
    s.input.sinkFault = false → exec (.drw x y n) s = .next t → exec (.drw x y n) t = .next u →
    u.fb = s.fb
      ∧ ((∀ r c, s.pixel r c = false) →
          t.reg VF = 0#8 ∧ (u.reg VF = 1#8 ↔ ∃ r < n.toNat, s.byteAt (s.I.toNat + r) ≠ 0#8))

/-- R194: exactly one frame, the complete framebuffer, per DRW that does not fault; a sink that reports failure raises
HostIoFault instead; no frame is emitted when the bounds check fails. That n = 0 is within bounds, the sink's input value
and one frame per DRW are the spec's decisions D31, D32, D38 (log 13, log 19). -/
def Obligations.OneFramePerDraw : Prop :=
  ∀ (s t : State) (x y n : Nibble), exec (.drw x y n) s = .next t →
    ((n = 0#4 ∨ s.I.toNat + n.toNat ≤ 0x1000) → s.input.sinkFault = false → t.outputs = .frame t.fb :: s.outputs)
    ∧ ((n = 0#4 ∨ s.I.toNat + n.toNat ≤ 0x1000) → s.input.sinkFault = true →
        t.mode = .faulted (.hostIoFault s.pc (some (0xD#4 ++ x ++ y ++ n)) .render)
        ∧ t.outputs = .faultReport (.hostIoFault s.pc (some (0xD#4 ++ x ++ y ++ n)) .render) :: s.outputs)
    ∧ (n ≠ 0#4 → s.I.toNat + n.toNat > 0x1000 → ∃ f, t.outputs = .faultReport f :: s.outputs)

/-- R192, R235, R236, R237: a refused frame faults after framebuffer and VF have been updated, with pc still at the DRW and
the DRW's word in the record. That pc stays, the order of reads, n = 0 and the input value are the spec's decisions D13,
D14, D31, D32 (log 13, log 19); that the record holds the word beside the phase is log 22. -/
def Obligations.RefusedFrameFaultsAfterDrawing : Prop :=
  ∀ (s : State) (x y n : Nibble), (n = 0#4 ∨ s.I.toNat + n.toNat ≤ 0x1000) → s.input.sinkFault = true →
    ∃ t : State, exec (.drw x y n) s = .next t
      ∧ t.mode = .faulted (.hostIoFault s.pc (some (0xD#4 ++ x ++ y ++ n)) .render)
      ∧ t.outputs = .faultReport (.hostIoFault s.pc (some (0xD#4 ++ x ++ y ++ n)) .render) :: s.outputs
      ∧ (∀ r c, t.pixel r c = (s.pixel r c ^^ spriteCovers s s.I.toNat (s.reg x) (s.reg y) n.toNat r c))
      ∧ (t.reg VF = 0#8 ∨ t.reg VF = 1#8)
      ∧ (t.reg VF = 1#8 ↔ ∃ r c, s.pixel r c = true ∧ t.pixel r c = false)
      ∧ SameBut [.pixels, .reg VF, .runMode, .outputLog] s t

/-- R233, R67: MemoryBoundViolation is raised by the four instructions when the highest address they would touch is above
0xFFF, with that address recorded and nothing else changed, and by no other instruction. That nothing else changes, that n = 0
touches nothing and that no sum wraps are the spec's decisions D13, D31, D35 (log 13, log 15). -/
def Obligations.OutOfBoundsTransfersRaise : Prop :=
  ∀ (s : State) (x y n : Nibble),
    (n ≠ 0#4 → s.I.toNat + n.toNat - 1 > 0xFFF → ∃ t : State, exec (.drw x y n) s = .next t
      ∧ Raised (.memoryBoundViolation s.pc (0xD#4 ++ x ++ y ++ n) (s.I.toNat + n.toNat - 1)) s t)
    ∧ (s.I.toNat + 2 > 0xFFF → ∃ t : State, exec (.ldBcd x) s = .next t
      ∧ Raised (.memoryBoundViolation s.pc (0xF#4 ++ x ++ 0x33#8) (s.I.toNat + 2)) s t)
    ∧ (s.I.toNat + x.toNat > 0xFFF → ∃ t : State, exec (.regDump x) s = .next t
      ∧ Raised (.memoryBoundViolation s.pc (0xF#4 ++ x ++ 0x55#8) (s.I.toNat + x.toNat)) s t)
    ∧ (s.I.toNat + x.toNat > 0xFFF → ∃ t : State, exec (.regLoad x) s = .next t
      ∧ Raised (.memoryBoundViolation s.pc (0xF#4 ++ x ++ 0x65#8) (s.I.toNat + x.toNat)) s t)
    ∧ (∀ (i : Instr) (t : State) (p w : Word) (a : Nat), exec i s = .next t →
        t.mode = .faulted (.memoryBoundViolation p w a) → s.mode ≠ t.mode →
        (∃ x y n, i = .drw x y n ∧ n ≠ 0#4 ∧ s.I.toNat + n.toNat - 1 > 0xFFF) ∨ (∃ x, i = .ldBcd x ∧ s.I.toNat + 2 > 0xFFF)
        ∨ (∃ x, i = .regDump x ∧ s.I.toNat + x.toNat > 0xFFF) ∨ (∃ x, i = .regLoad x ∧ s.I.toNat + x.toNat > 0xFFF))

/-! ### Keypad -/

/-- R201, R204: SKP consumes a key that matches the low nibble of Vx and skips; else it only advances. -/
def Obligations.SkpConsumesAndSkips : Prop :=
  ∀ (s : State) (x : Nibble), ∃ t : State, exec (.skp x) s = .next t
    ∧ ((∃ k, s.key = some k ∧ k.toNat = (s.reg x).toNat % 16) → t.key = none ∧ t.pc = s.pc + 4#16)
    ∧ ((¬ ∃ k, s.key = some k ∧ k.toNat = (s.reg x).toNat % 16) → t.key = s.key ∧ t.pc = s.pc + 2#16)
    ∧ SameBut [.keyCell, .pc] s t

/-- R202, R204: SKNP consumes a matching key and does not skip; in every other case it skips. The spec's decision D15
(log 14). -/
def Obligations.SknpConsumesWithoutSkip : Prop :=
  ∀ (s : State) (x : Nibble), ∃ t : State, exec (.sknp x) s = .next t
    ∧ ((∃ k, s.key = some k ∧ k.toNat = (s.reg x).toNat % 16) → t.key = none ∧ t.pc = s.pc + 2#16)
    ∧ ((¬ ∃ k, s.key = some k ∧ k.toNat = (s.reg x).toNat % 16) → t.key = s.key ∧ t.pc = s.pc + 4#16)
    ∧ SameBut [.keyCell, .pc] s t

/-- R203, R129: LD Vx, K enters the wait; pc, every register and the key cell stay. The spec's decisions D16 and D40
(log 14). -/
def Obligations.WaitIsEntered : Prop :=
  ∀ (s : State) (x : Nibble), ∃ t : State, exec (.ldVxKey x) s = .next t ∧ t.mode = .waitingForKey x
    ∧ SameBut [.runMode] s t

/-! ### Timers, index register, memory transfers -/

/-- R210 to R212: the three moves between a register and a timer cell. -/
def Obligations.TimerMoves : Prop :=
  (∀ (s : State) (x : Nibble), ∃ t : State, exec (.ldVxDt x) s = .next t
    ∧ t.reg x = s.DT ∧ t.pc = s.pc + 2#16 ∧ SameBut [.reg x, .pc] s t)
  ∧ (∀ (s : State) (x : Nibble), ∃ t : State, exec (.ldDtVx x) s = .next t
    ∧ t.DT = s.reg x ∧ t.pc = s.pc + 2#16 ∧ SameBut [.delay, .pc] s t)
  ∧ (∀ (s : State) (x : Nibble), ∃ t : State, exec (.ldStVx x) s = .next t
    ∧ t.ST = s.reg x ∧ t.pc = s.pc + 2#16 ∧ SameBut [.sound, .pc] s t)

/-- R213, R214: LD I, addr and ADD I, Vx, the sum modulo 65536 with no flag. The spec's decisions D30 and D11 (log 12). -/
def Obligations.IndexLoadAndAdd : Prop :=
  (∀ (s : State) (nnn : Addr12), ∃ t : State, exec (.ldIndex nnn) s = .next t
    ∧ t.I.toNat = nnn.toNat ∧ t.pc = s.pc + 2#16 ∧ SameBut [.index, .pc] s t)
  ∧ (∀ (s : State) (x : Nibble), ∃ t : State, exec (.addIndex x) s = .next t
    ∧ t.I.toNat = (s.I.toNat + (s.reg x).toNat) % 65536 ∧ t.pc = s.pc + 2#16 ∧ SameBut [.index, .pc] s t)

/-- R215: LD F, Vx: five times the whole register value. -/
def Obligations.FontAddressIsFiveTimesVx : Prop :=
  ∀ (s : State) (x : Nibble), ∃ t : State, exec (.ldFont x) s = .next t
    ∧ t.I.toNat = 5 * (s.reg x).toNat ∧ t.pc = s.pc + 2#16 ∧ SameBut [.index, .pc] s t

/-- R216: LD B, Vx: the three decimal digits at I, I + 1, I + 2, or the fault before any byte is written (D13, log 13). -/
def Obligations.BcdDigitsAreStored : Prop :=
  ∀ (s : State) (x : Nibble),
    (s.I.toNat + 2 ≤ 0xFFF → ∃ t : State, exec (.ldBcd x) s = .next t
      ∧ (t.byteAt s.I.toNat).toNat = (s.reg x).toNat / 100
      ∧ (t.byteAt (s.I.toNat + 1)).toNat = (s.reg x).toNat / 10 % 10
      ∧ (t.byteAt (s.I.toNat + 2)).toNat = (s.reg x).toNat % 10
      ∧ t.pc = s.pc + 2#16
      ∧ SameBut [.byte s.I.toNat, .byte (s.I.toNat + 1), .byte (s.I.toNat + 2), .pc] s t)
    ∧ (s.I.toNat + 2 > 0xFFF → ∃ t : State, exec (.ldBcd x) s = .next t
      ∧ Raised (.memoryBoundViolation s.pc (0xF#4 ++ x ++ 0x33#8) (s.I.toNat + 2)) s t)

/-- R217, R219: RegDump stores V0 to Vx at I to I + x and nothing else; that I stays is the spec's decision D12 (log 12). -/
def Obligations.RegDumpStoresV0ToVx : Prop :=
  ∀ (s : State) (x : Nibble), s.I.toNat + x.toNat ≤ 0xFFF → ∃ t : State, exec (.regDump x) s = .next t
    ∧ (∀ r : Nibble, r.toNat ≤ x.toNat → t.byteAt (s.I.toNat + r.toNat) = s.reg r)
    ∧ t.pc = s.pc + 2#16 ∧ SameBut (.pc :: byteParts s.I.toNat (x.toNat + 1)) s t

/-- R218, R219: RegLoad loads V0 to Vx from I to I + x and nothing else; that I stays is the spec's decision D12 (log 12). -/
def Obligations.RegLoadLoadsV0ToVx : Prop :=
  ∀ (s : State) (x : Nibble), s.I.toNat + x.toNat ≤ 0xFFF → ∃ t : State, exec (.regLoad x) s = .next t
    ∧ (∀ r : Nibble, r.toNat ≤ x.toNat → t.reg r = s.byteAt (s.I.toNat + r.toNat))
    ∧ t.pc = s.pc + 2#16 ∧ SameBut (.pc :: regParts (x.toNat + 1)) s t

/-- R74: a stored word is what the very next fetch runs: no operation stands between a store and the fetch of it. The byte
order is D1 (log 8). -/
def Obligations.StoredWordIsFetchedNext : Prop :=
  ∀ (s t : State) (x r : Nibble) (input : StepInput) (i : Instr),
    s.I.toNat + x.toNat ≤ 0xFFF → exec (.regDump x) s = .next t → r.toNat + 1 ≤ x.toNat →
    t.pc.toNat = s.I.toNat + r.toNat → CycleStarts t input → decode (s.reg r ++ s.reg (r + 1#4)) = .ok i →
    ∃ t' : State, step t = exec i t' ∧ SameBut [.environment, .keyCell] t t'

/-! ### Whole-machine rules -/

/-- R67: only LD B and RegDump write memory, and only the bytes they name. -/
def Obligations.MemoryWrittenOnlyByStores : Prop :=
  ∀ (i : Instr) (s t : State) (a : Nat), exec i s = .next t → t.byteAt a ≠ s.byteAt a →
    (∃ x, i = .ldBcd x ∧ s.I.toNat ≤ a ∧ a ≤ s.I.toNat + 2)
    ∨ (∃ x, i = .regDump x ∧ s.I.toNat ≤ a ∧ a ≤ s.I.toNat + x.toNat)

/-- R21, R22: an instruction writes no register but its destination and, if R22 lists it, VF. That ADD Vx, byte is not listed
is the spec's decision D9 (log 12). -/
def Obligations.RegistersWrittenOnlyAsListed : Prop :=
  ∀ (i : Instr) (s t : State) (r : Nibble), exec i s = .next t → t.reg r ≠ s.reg r → r ∈ Instr.regsWritten i

/-- R24 to R30, R41: who writes the special registers, the stack, the framebuffer and the key cell. Rests on D6, D12, D15
and D16 (log 10, log 12, log 14). -/
def Obligations.SpecialStateHasItsOwners : Prop :=
  ∀ (i : Instr) (s t : State), exec i s = .next t →
    (t.I ≠ s.I → (∃ nnn, i = .ldIndex nnn) ∨ (∃ x, i = .addIndex x) ∨ ∃ x, i = .ldFont x)
    ∧ (t.sp ≠ s.sp → i = .ret ∨ ∃ nnn, i = .call nnn)
    ∧ (∀ j, t.slot j ≠ s.slot j → ∃ nnn, i = .call nnn)
    ∧ (t.fb ≠ s.fb → i = .cls ∨ ∃ x y n, i = .drw x y n)
    ∧ (t.DT ≠ s.DT → ∃ x, i = .ldDtVx x)
    ∧ (t.ST ≠ s.ST → ∃ x, i = .ldStVx x)
    ∧ (t.key ≠ s.key → (∃ x, i = .skp x) ∨ ∃ x, i = .sknp x)

/-- R236, R237: faults are precise: an instruction that raises any fault but a refused frame changes nothing but the mode
and the report; a refused frame leaves framebuffer and VF updated as well. The spec's decision D13 (log 13); the record of
a refused frame is log 22. -/
def Obligations.FaultsArePrecise : Prop :=
  ∀ (i : Instr) (s t : State) (f : FatalFault), exec i s = .next t → t.mode = .faulted f → s.mode ≠ .faulted f →
    t.outputs = .faultReport f :: s.outputs
    ∧ (SameBut [.runMode, .outputLog] s t
      ∨ ((∃ x y n, i = .drw x y n ∧ f = .hostIoFault s.pc (some (0xD#4 ++ x ++ y ++ n)) .render)
        ∧ SameBut [.runMode, .outputLog, .pixels, .reg VF] s t))

/-- R131: across any step the delay timer rises only where an LD DT, Vx was executed: the step is a cycle that gets past
its poll and its fetch, the word at pc is that instruction, and DT becomes its Vx. The byte order is D1 (log 8), the fetch
bound D4 (log 15). -/
def Obligations.DelayTimerRisesOnlyByLoad : Prop :=
  ∀ s t : State, step s = .next t → t.DT.toNat > s.DT.toNat →
    ∃ (input : StepInput) (x : Nibble), CycleStarts s input ∧ s.pc.toNat ≤ 0xFFE
      ∧ decode (s.byteAt s.pc.toNat ++ s.byteAt (s.pc.toNat + 1)) = .ok (.ldDtVx x) ∧ t.DT = s.reg x

/-- R28: slot 0 is never written, by either agent, from any state (the convention is the spec's decision D5, log 10). -/
def Obligations.SlotZeroIsNeverWritten : Prop :=
  ∀ s t : State, step s = .next t → t.slot 0#4 = s.slot 0#4

/-- R26, R212: nothing observable follows from the value of ST: two states that differ in ST alone take the same step, to
states that differ in ST alone. -/
def Obligations.SoundTimerIsNeverObserved : Prop :=
  ∀ (s t : State) (b : Byte), step s = .next t → ∃ c : Byte, step (s.setST b) = .next (t.setST c)

/-! ### Invariants -/

/-- R60, R66: every step keeps the memory in its canonical form, with no entry outside the 4096 bytes, from every state that
has it. (The canonical form is the model's; that no step writes outside memory is R66.) -/
def Obligations.StepsKeepMemoryCanonical : Prop :=
  ∀ s t : State, MemCanonical s → step s = .next t → MemCanonical t

/-- R127: every step keeps pc at or below 0x10FE and every return address at or below 0xFFE, so that the wrap of pc at 65536
is never reached by a running program. Rests on D4, D10, D37, D39 (log 10, log 12, log 15). -/
def Obligations.StepsKeepPcBounded : Prop :=
  ∀ s t : State, PcBounded s → step s = .next t → PcBounded t

/-- R36: every step keeps the latched x of the wait equal to bits 11:8 of the Fx0A at pc. (The byte order is D1, log 8.) -/
def Obligations.StepsKeepTheWaitWord : Prop :=
  ∀ s t : State, WaitWordAtPc s → step s = .next t → WaitWordAtPc t

/-- The three invariants hold at reset (R38; the values of pc, mode and memory are D2, D3, D29, log 4, log 6). -/
def Obligations.ResetMeetsTheInvariants : Prop :=
  MemCanonical State.reset ∧ PcBounded State.reset ∧ WaitWordAtPc State.reset
end

