-- ==== Sys2Proof/Laws/Decode.lean ====
section
/-!
SUPPORT. The fields of a word as numbers, the fields of a word put together from its fields, and the word put together again
(spec/30_encoding.md R91, R92): what a round trip of the decoder and the encoder rests on.
-/
namespace Sys2Proof

theorem toNat_append {a b : Nat} (x : BitVec a) (y : BitVec b) : (x ++ y).toNat = x.toNat * 2 ^ b + y.toNat := by
  rw [BitVec.toNat_append, ← Nat.shiftLeft_add_eq_or_of_lt y.isLt, Nat.shiftLeft_eq]

theorem toNat_nnn (op : Nibble) (nnn : Addr12) : (op ++ nnn : Word).toNat = op.toNat * 4096 + nnn.toNat := toNat_append op nnn

theorem toNat_xkk (op x : Nibble) (kk : Byte) : (op ++ x ++ kk : Word).toNat = (op.toNat * 16 + x.toNat) * 256 + kk.toNat :=
  (toNat_append (op ++ x) kk).trans (by rw [toNat_append]; rfl)

theorem toNat_xyn (op x y n : Nibble) :
    (op ++ x ++ y ++ n : Word).toNat = ((op.toNat * 16 + x.toNat) * 16 + y.toNat) * 16 + n.toNat :=
  (toNat_append (op ++ x ++ y) n).trans (by rw [toNat_append, toNat_append]; rfl)

theorem fieldOp_toNat (w : Word) : (fieldOp w).toNat = w.toNat / 4096 := by
  have := w.isLt; simp [fieldOp, BitVec.extractLsb'_toNat, Nat.shiftRight_eq_div_pow]; omega

theorem fieldX_toNat (w : Word) : (fieldX w).toNat = w.toNat / 256 % 16 := by
  simp [fieldX, BitVec.extractLsb'_toNat, Nat.shiftRight_eq_div_pow]

theorem fieldY_toNat (w : Word) : (fieldY w).toNat = w.toNat / 16 % 16 := by
  simp [fieldY, BitVec.extractLsb'_toNat, Nat.shiftRight_eq_div_pow]

theorem fieldN_toNat (w : Word) : (fieldN w).toNat = w.toNat % 16 := by
  simp [fieldN, BitVec.extractLsb'_toNat]

theorem fieldKk_toNat (w : Word) : (fieldKk w).toNat = w.toNat % 256 := by
  simp [fieldKk, BitVec.extractLsb'_toNat]

theorem fieldNnn_toNat (w : Word) : (fieldNnn w).toNat = w.toNat % 4096 := by
  simp [fieldNnn, BitVec.extractLsb'_toNat]

theorem fieldOp_nnn (op : Nibble) (nnn : Addr12) : fieldOp (op ++ nnn) = op := by
  apply BitVec.eq_of_toNat_eq; rw [fieldOp_toNat, toNat_nnn]; omega

theorem fieldNnn_nnn (op : Nibble) (nnn : Addr12) : fieldNnn (op ++ nnn) = nnn := by
  apply BitVec.eq_of_toNat_eq; rw [fieldNnn_toNat, toNat_nnn]; omega

theorem fieldOp_xkk (op x : Nibble) (kk : Byte) : fieldOp (op ++ x ++ kk) = op := by
  apply BitVec.eq_of_toNat_eq; rw [fieldOp_toNat, toNat_xkk]; omega

theorem fieldX_xkk (op x : Nibble) (kk : Byte) : fieldX (op ++ x ++ kk) = x := by
  apply BitVec.eq_of_toNat_eq; rw [fieldX_toNat, toNat_xkk]; omega

theorem fieldKk_xkk (op x : Nibble) (kk : Byte) : fieldKk (op ++ x ++ kk) = kk := by
  apply BitVec.eq_of_toNat_eq; rw [fieldKk_toNat, toNat_xkk]; omega

theorem fieldOp_xyn (op x y n : Nibble) : fieldOp (op ++ x ++ y ++ n) = op := by
  apply BitVec.eq_of_toNat_eq; rw [fieldOp_toNat, toNat_xyn]; omega

theorem fieldX_xyn (op x y n : Nibble) : fieldX (op ++ x ++ y ++ n) = x := by
  apply BitVec.eq_of_toNat_eq; rw [fieldX_toNat, toNat_xyn]; omega

theorem fieldY_xyn (op x y n : Nibble) : fieldY (op ++ x ++ y ++ n) = y := by
  apply BitVec.eq_of_toNat_eq; rw [fieldY_toNat, toNat_xyn]; omega

theorem fieldN_xyn (op x y n : Nibble) : fieldN (op ++ x ++ y ++ n) = n := by
  apply BitVec.eq_of_toNat_eq; rw [fieldN_toNat, toNat_xyn]; omega

theorem fields_xyn (w : Word) : fieldOp w ++ fieldX w ++ fieldY w ++ fieldN w = w := by
  apply BitVec.eq_of_toNat_eq; rw [toNat_xyn, fieldOp_toNat, fieldX_toNat, fieldY_toNat, fieldN_toNat]; omega

theorem fields_xkk (w : Word) : fieldOp w ++ fieldX w ++ fieldKk w = w := by
  apply BitVec.eq_of_toNat_eq; rw [toNat_xkk, fieldOp_toNat, fieldX_toNat, fieldKk_toNat]; omega

theorem fields_nnn (w : Word) : fieldOp w ++ fieldNnn w = w := by
  apply BitVec.eq_of_toNat_eq; rw [toNat_nnn, fieldOp_toNat, fieldNnn_toNat]; omega

theorem decode_eq_decodeFamily (w : Word) (h : fieldOp w ≠ 0#4) : decode w = decodeFamily w := by
  unfold decode
  split
  · subst w; exact absurd rfl h
  · split
    · subst w; exact absurd rfl h
    · rfl

end Sys2Proof
end

