-- ==== Sys2Proof/Laws/Memory.lean ====
section
/-!
SUPPORT. The laws of memory: a read after a write, in every memory, and that the canonical form is kept.
-/
namespace Sys2Proof.Machine

@[simp] theorem Memory.read_nil (a : Nat) : Memory.read [] a = Memory.initial a := rfl

theorem Memory.read_cons (c : Host.Cell) (m : Memory) (a : Nat) :
    Memory.read (c :: m) a = if c.1 = a then c.2 else Memory.read m a := rfl

theorem Memory.read_erase (m : Memory) (a a' : Nat) :
    (Memory.erase m a).read a' = if a' = a then Memory.initial a' else m.read a' := by
  induction m with
  | nil => simp [Memory.erase]
  | cons c m ih =>
    by_cases hc : c.1 = a
    · have h : Memory.erase (c :: m) a = Memory.erase m a := by simp [Memory.erase, hc]
      rw [h, ih, Memory.read_cons]
      by_cases ha : a' = a
      · simp [ha]
      · simp [ha, hc, Ne.symm ha]
    · have h : Memory.erase (c :: m) a = c :: Memory.erase m a := by simp [Memory.erase, hc]
      rw [h, Memory.read_cons, ih, Memory.read_cons]
      by_cases ha : a' = a
      · subst ha; simp [hc]
      · simp [ha]

theorem Memory.not_mem_erase (m : Memory) (a : Nat) : ∀ c ∈ Memory.erase m a, c.1 ≠ a := by
  intro c hc
  simpa using (List.mem_filter.mp hc).2

/-- Where no entry for `a` is listed, an inserted entry is the one read. -/
theorem Memory.read_insert (m : Memory) (a a' : Nat) (b : Byte) (h : ∀ c ∈ m, c.1 ≠ a) :
    (Memory.insert m a b).read a' = if a' = a then b else m.read a' := by
  induction m with
  | nil => simp [Memory.insert, Memory.read_cons, eq_comm]
  | cons c m ih =>
    unfold Memory.insert
    split
    · rw [Memory.read_cons]; simp [eq_comm]
    · have hc : c.1 ≠ a := h c (by simp)
      rw [Memory.read_cons, ih (fun d hd => h d (by simp [hd])), Memory.read_cons]
      by_cases ha : a' = a
      · subst ha; simp [hc]
      · simp [ha]

/-- Read after write: the byte written at its address, every other address as before. It holds in every memory. -/
theorem Memory.read_write (m : Memory) (a a' : Nat) (b : Byte) :
    (m.write a b).read a' = if a' = a then b else m.read a' := by
  unfold Memory.write
  split
  · next h => rw [Memory.read_erase]; split <;> simp_all
  · rw [Memory.read_insert _ _ _ _ (Memory.not_mem_erase m a), Memory.read_erase]
    split <;> simp_all

theorem Memory.mem_insert (m : Memory) (a : Nat) (b : Byte) (c : Host.Cell) :
    c ∈ Memory.insert m a b ↔ c = (a, b) ∨ c ∈ m := by
  induction m with
  | nil => simp [Memory.insert]
  | cons d m ih =>
    unfold Memory.insert
    split
    · simp
    · simp only [List.mem_cons, ih]; tauto

theorem Memory.pairwise_insert (m : Memory) (a : Nat) (b : Byte) (h : ∀ c ∈ m, c.1 ≠ a)
    (hs : List.Pairwise (fun c d : Host.Cell => c.1 < d.1) m) :
    List.Pairwise (fun c d : Host.Cell => c.1 < d.1) (Memory.insert m a b) := by
  induction m with
  | nil => simp [Memory.insert]
  | cons c m ih =>
    have hc := h c (by simp)
    rw [List.pairwise_cons] at hs
    unfold Memory.insert
    split
    · next hlt =>
      refine List.pairwise_cons.mpr ⟨?_, List.pairwise_cons.mpr hs⟩
      intro d hd
      rcases List.mem_cons.mp hd with rfl | hd
      · exact hlt
      · exact lt_trans hlt (hs.1 d hd)
    · refine List.pairwise_cons.mpr ⟨?_, ih (fun d hd => h d (by simp [hd])) hs.2⟩
      intro d hd
      rcases (Memory.mem_insert m a b d).mp hd with rfl | hd
      · show c.1 < a; omega
      · exact hs.1 d hd

theorem Memory.wf_nil : Memory.wf [] := by simp [Memory.wf]

theorem Memory.wf_erase (m : Memory) (a : Nat) (h : m.wf) : (Memory.erase m a).wf :=
  ⟨h.1.filter _, fun c hc => h.2 c (List.mem_filter.mp hc).1⟩

/-- A write to an address that exists keeps the canonical form. -/
theorem Memory.wf_write (m : Memory) (a : Nat) (b : Byte) (h : m.wf) (ha : a < Config.memSize) :
    (m.write a b).wf := by
  unfold Memory.write
  split
  · exact Memory.wf_erase m a h
  · next hb =>
    have he := Memory.wf_erase m a h
    refine ⟨Memory.pairwise_insert _ a b (Memory.not_mem_erase m a) he.1, fun c hc => ?_⟩
    rcases (Memory.mem_insert _ a b c).mp hc with rfl | hc
    · exact ⟨ha, hb⟩
    · exact he.2 c hc

end Sys2Proof.Machine
end

