-- ==== Sys2Proof/Laws/State.lean ====
section
/-!
SUPPORT. One lemma per field per single-field update (Machine/Ops.lean), so that no proof unfolds a record update.
-/
namespace Sys2Proof.Machine

variable (s : State)

/-! ### setMem -/

@[simp] theorem State.setMem_mem (m : Memory) : (s.setMem m).mem = m := rfl
@[simp] theorem State.setMem_V (m : Memory) : (s.setMem m).V = s.V := rfl
@[simp] theorem State.setMem_I (m : Memory) : (s.setMem m).I = s.I := rfl
@[simp] theorem State.setMem_pc (m : Memory) : (s.setMem m).pc = s.pc := rfl
@[simp] theorem State.setMem_stack (m : Memory) : (s.setMem m).stack = s.stack := rfl
@[simp] theorem State.setMem_sp (m : Memory) : (s.setMem m).sp = s.sp := rfl
@[simp] theorem State.setMem_fb (m : Memory) : (s.setMem m).fb = s.fb := rfl
@[simp] theorem State.setMem_DT (m : Memory) : (s.setMem m).DT = s.DT := rfl
@[simp] theorem State.setMem_ST (m : Memory) : (s.setMem m).ST = s.ST := rfl
@[simp] theorem State.setMem_key (m : Memory) : (s.setMem m).key = s.key := rfl
@[simp] theorem State.setMem_mode (m : Memory) : (s.setMem m).mode = s.mode := rfl
@[simp] theorem State.setMem_input (m : Memory) : (s.setMem m).input = s.input := rfl
@[simp] theorem State.setMem_pending (m : Memory) : (s.setMem m).pending = s.pending := rfl
@[simp] theorem State.setMem_envCount (m : Memory) : (s.setMem m).envCount = s.envCount := rfl
@[simp] theorem State.setMem_outputs (m : Memory) : (s.setMem m).outputs = s.outputs := rfl

/-! ### setReg -/

@[simp] theorem State.setReg_mem (x : Nibble) (b : Byte) : (s.setReg x b).mem = s.mem := rfl
@[simp] theorem State.setReg_V (x : Nibble) (b : Byte) : (s.setReg x b).V = s.V.set x.toNat b x.isLt := rfl
@[simp] theorem State.setReg_I (x : Nibble) (b : Byte) : (s.setReg x b).I = s.I := rfl
@[simp] theorem State.setReg_pc (x : Nibble) (b : Byte) : (s.setReg x b).pc = s.pc := rfl
@[simp] theorem State.setReg_stack (x : Nibble) (b : Byte) : (s.setReg x b).stack = s.stack := rfl
@[simp] theorem State.setReg_sp (x : Nibble) (b : Byte) : (s.setReg x b).sp = s.sp := rfl
@[simp] theorem State.setReg_fb (x : Nibble) (b : Byte) : (s.setReg x b).fb = s.fb := rfl
@[simp] theorem State.setReg_DT (x : Nibble) (b : Byte) : (s.setReg x b).DT = s.DT := rfl
@[simp] theorem State.setReg_ST (x : Nibble) (b : Byte) : (s.setReg x b).ST = s.ST := rfl
@[simp] theorem State.setReg_key (x : Nibble) (b : Byte) : (s.setReg x b).key = s.key := rfl
@[simp] theorem State.setReg_mode (x : Nibble) (b : Byte) : (s.setReg x b).mode = s.mode := rfl
@[simp] theorem State.setReg_input (x : Nibble) (b : Byte) : (s.setReg x b).input = s.input := rfl
@[simp] theorem State.setReg_pending (x : Nibble) (b : Byte) : (s.setReg x b).pending = s.pending := rfl
@[simp] theorem State.setReg_envCount (x : Nibble) (b : Byte) : (s.setReg x b).envCount = s.envCount := rfl
@[simp] theorem State.setReg_outputs (x : Nibble) (b : Byte) : (s.setReg x b).outputs = s.outputs := rfl

/-! ### setI -/

@[simp] theorem State.setI_mem (w : Word) : (s.setI w).mem = s.mem := rfl
@[simp] theorem State.setI_V (w : Word) : (s.setI w).V = s.V := rfl
@[simp] theorem State.setI_I (w : Word) : (s.setI w).I = w := rfl
@[simp] theorem State.setI_pc (w : Word) : (s.setI w).pc = s.pc := rfl
@[simp] theorem State.setI_stack (w : Word) : (s.setI w).stack = s.stack := rfl
@[simp] theorem State.setI_sp (w : Word) : (s.setI w).sp = s.sp := rfl
@[simp] theorem State.setI_fb (w : Word) : (s.setI w).fb = s.fb := rfl
@[simp] theorem State.setI_DT (w : Word) : (s.setI w).DT = s.DT := rfl
@[simp] theorem State.setI_ST (w : Word) : (s.setI w).ST = s.ST := rfl
@[simp] theorem State.setI_key (w : Word) : (s.setI w).key = s.key := rfl
@[simp] theorem State.setI_mode (w : Word) : (s.setI w).mode = s.mode := rfl
@[simp] theorem State.setI_input (w : Word) : (s.setI w).input = s.input := rfl
@[simp] theorem State.setI_pending (w : Word) : (s.setI w).pending = s.pending := rfl
@[simp] theorem State.setI_envCount (w : Word) : (s.setI w).envCount = s.envCount := rfl
@[simp] theorem State.setI_outputs (w : Word) : (s.setI w).outputs = s.outputs := rfl

/-! ### setPc -/

@[simp] theorem State.setPc_mem (w : Word) : (s.setPc w).mem = s.mem := rfl
@[simp] theorem State.setPc_V (w : Word) : (s.setPc w).V = s.V := rfl
@[simp] theorem State.setPc_I (w : Word) : (s.setPc w).I = s.I := rfl
@[simp] theorem State.setPc_pc (w : Word) : (s.setPc w).pc = w := rfl
@[simp] theorem State.setPc_stack (w : Word) : (s.setPc w).stack = s.stack := rfl
@[simp] theorem State.setPc_sp (w : Word) : (s.setPc w).sp = s.sp := rfl
@[simp] theorem State.setPc_fb (w : Word) : (s.setPc w).fb = s.fb := rfl
@[simp] theorem State.setPc_DT (w : Word) : (s.setPc w).DT = s.DT := rfl
@[simp] theorem State.setPc_ST (w : Word) : (s.setPc w).ST = s.ST := rfl
@[simp] theorem State.setPc_key (w : Word) : (s.setPc w).key = s.key := rfl
@[simp] theorem State.setPc_mode (w : Word) : (s.setPc w).mode = s.mode := rfl
@[simp] theorem State.setPc_input (w : Word) : (s.setPc w).input = s.input := rfl
@[simp] theorem State.setPc_pending (w : Word) : (s.setPc w).pending = s.pending := rfl
@[simp] theorem State.setPc_envCount (w : Word) : (s.setPc w).envCount = s.envCount := rfl
@[simp] theorem State.setPc_outputs (w : Word) : (s.setPc w).outputs = s.outputs := rfl

/-! ### setSlot -/

@[simp] theorem State.setSlot_mem (j : Nibble) (w : Word) : (s.setSlot j w).mem = s.mem := rfl
@[simp] theorem State.setSlot_V (j : Nibble) (w : Word) : (s.setSlot j w).V = s.V := rfl
@[simp] theorem State.setSlot_I (j : Nibble) (w : Word) : (s.setSlot j w).I = s.I := rfl
@[simp] theorem State.setSlot_pc (j : Nibble) (w : Word) : (s.setSlot j w).pc = s.pc := rfl
@[simp] theorem State.setSlot_stack (j : Nibble) (w : Word) : (s.setSlot j w).stack = s.stack.set j.toNat w j.isLt := rfl
@[simp] theorem State.setSlot_sp (j : Nibble) (w : Word) : (s.setSlot j w).sp = s.sp := rfl
@[simp] theorem State.setSlot_fb (j : Nibble) (w : Word) : (s.setSlot j w).fb = s.fb := rfl
@[simp] theorem State.setSlot_DT (j : Nibble) (w : Word) : (s.setSlot j w).DT = s.DT := rfl
@[simp] theorem State.setSlot_ST (j : Nibble) (w : Word) : (s.setSlot j w).ST = s.ST := rfl
@[simp] theorem State.setSlot_key (j : Nibble) (w : Word) : (s.setSlot j w).key = s.key := rfl
@[simp] theorem State.setSlot_mode (j : Nibble) (w : Word) : (s.setSlot j w).mode = s.mode := rfl
@[simp] theorem State.setSlot_input (j : Nibble) (w : Word) : (s.setSlot j w).input = s.input := rfl
@[simp] theorem State.setSlot_pending (j : Nibble) (w : Word) : (s.setSlot j w).pending = s.pending := rfl
@[simp] theorem State.setSlot_envCount (j : Nibble) (w : Word) : (s.setSlot j w).envCount = s.envCount := rfl
@[simp] theorem State.setSlot_outputs (j : Nibble) (w : Word) : (s.setSlot j w).outputs = s.outputs := rfl

/-! ### setSp -/

@[simp] theorem State.setSp_mem (j : Nibble) : (s.setSp j).mem = s.mem := rfl
@[simp] theorem State.setSp_V (j : Nibble) : (s.setSp j).V = s.V := rfl
@[simp] theorem State.setSp_I (j : Nibble) : (s.setSp j).I = s.I := rfl
@[simp] theorem State.setSp_pc (j : Nibble) : (s.setSp j).pc = s.pc := rfl
@[simp] theorem State.setSp_stack (j : Nibble) : (s.setSp j).stack = s.stack := rfl
@[simp] theorem State.setSp_sp (j : Nibble) : (s.setSp j).sp = j := rfl
@[simp] theorem State.setSp_fb (j : Nibble) : (s.setSp j).fb = s.fb := rfl
@[simp] theorem State.setSp_DT (j : Nibble) : (s.setSp j).DT = s.DT := rfl
@[simp] theorem State.setSp_ST (j : Nibble) : (s.setSp j).ST = s.ST := rfl
@[simp] theorem State.setSp_key (j : Nibble) : (s.setSp j).key = s.key := rfl
@[simp] theorem State.setSp_mode (j : Nibble) : (s.setSp j).mode = s.mode := rfl
@[simp] theorem State.setSp_input (j : Nibble) : (s.setSp j).input = s.input := rfl
@[simp] theorem State.setSp_pending (j : Nibble) : (s.setSp j).pending = s.pending := rfl
@[simp] theorem State.setSp_envCount (j : Nibble) : (s.setSp j).envCount = s.envCount := rfl
@[simp] theorem State.setSp_outputs (j : Nibble) : (s.setSp j).outputs = s.outputs := rfl

/-! ### setFb -/

@[simp] theorem State.setFb_mem (fb : Framebuffer) : (s.setFb fb).mem = s.mem := rfl
@[simp] theorem State.setFb_V (fb : Framebuffer) : (s.setFb fb).V = s.V := rfl
@[simp] theorem State.setFb_I (fb : Framebuffer) : (s.setFb fb).I = s.I := rfl
@[simp] theorem State.setFb_pc (fb : Framebuffer) : (s.setFb fb).pc = s.pc := rfl
@[simp] theorem State.setFb_stack (fb : Framebuffer) : (s.setFb fb).stack = s.stack := rfl
@[simp] theorem State.setFb_sp (fb : Framebuffer) : (s.setFb fb).sp = s.sp := rfl
@[simp] theorem State.setFb_fb (fb : Framebuffer) : (s.setFb fb).fb = fb := rfl
@[simp] theorem State.setFb_DT (fb : Framebuffer) : (s.setFb fb).DT = s.DT := rfl
@[simp] theorem State.setFb_ST (fb : Framebuffer) : (s.setFb fb).ST = s.ST := rfl
@[simp] theorem State.setFb_key (fb : Framebuffer) : (s.setFb fb).key = s.key := rfl
@[simp] theorem State.setFb_mode (fb : Framebuffer) : (s.setFb fb).mode = s.mode := rfl
@[simp] theorem State.setFb_input (fb : Framebuffer) : (s.setFb fb).input = s.input := rfl
@[simp] theorem State.setFb_pending (fb : Framebuffer) : (s.setFb fb).pending = s.pending := rfl
@[simp] theorem State.setFb_envCount (fb : Framebuffer) : (s.setFb fb).envCount = s.envCount := rfl
@[simp] theorem State.setFb_outputs (fb : Framebuffer) : (s.setFb fb).outputs = s.outputs := rfl

/-! ### setDT -/

@[simp] theorem State.setDT_mem (b : Byte) : (s.setDT b).mem = s.mem := rfl
@[simp] theorem State.setDT_V (b : Byte) : (s.setDT b).V = s.V := rfl
@[simp] theorem State.setDT_I (b : Byte) : (s.setDT b).I = s.I := rfl
@[simp] theorem State.setDT_pc (b : Byte) : (s.setDT b).pc = s.pc := rfl
@[simp] theorem State.setDT_stack (b : Byte) : (s.setDT b).stack = s.stack := rfl
@[simp] theorem State.setDT_sp (b : Byte) : (s.setDT b).sp = s.sp := rfl
@[simp] theorem State.setDT_fb (b : Byte) : (s.setDT b).fb = s.fb := rfl
@[simp] theorem State.setDT_DT (b : Byte) : (s.setDT b).DT = b := rfl
@[simp] theorem State.setDT_ST (b : Byte) : (s.setDT b).ST = s.ST := rfl
@[simp] theorem State.setDT_key (b : Byte) : (s.setDT b).key = s.key := rfl
@[simp] theorem State.setDT_mode (b : Byte) : (s.setDT b).mode = s.mode := rfl
@[simp] theorem State.setDT_input (b : Byte) : (s.setDT b).input = s.input := rfl
@[simp] theorem State.setDT_pending (b : Byte) : (s.setDT b).pending = s.pending := rfl
@[simp] theorem State.setDT_envCount (b : Byte) : (s.setDT b).envCount = s.envCount := rfl
@[simp] theorem State.setDT_outputs (b : Byte) : (s.setDT b).outputs = s.outputs := rfl

/-! ### setST -/

@[simp] theorem State.setST_mem (b : Byte) : (s.setST b).mem = s.mem := rfl
@[simp] theorem State.setST_V (b : Byte) : (s.setST b).V = s.V := rfl
@[simp] theorem State.setST_I (b : Byte) : (s.setST b).I = s.I := rfl
@[simp] theorem State.setST_pc (b : Byte) : (s.setST b).pc = s.pc := rfl
@[simp] theorem State.setST_stack (b : Byte) : (s.setST b).stack = s.stack := rfl
@[simp] theorem State.setST_sp (b : Byte) : (s.setST b).sp = s.sp := rfl
@[simp] theorem State.setST_fb (b : Byte) : (s.setST b).fb = s.fb := rfl
@[simp] theorem State.setST_DT (b : Byte) : (s.setST b).DT = s.DT := rfl
@[simp] theorem State.setST_ST (b : Byte) : (s.setST b).ST = b := rfl
@[simp] theorem State.setST_key (b : Byte) : (s.setST b).key = s.key := rfl
@[simp] theorem State.setST_mode (b : Byte) : (s.setST b).mode = s.mode := rfl
@[simp] theorem State.setST_input (b : Byte) : (s.setST b).input = s.input := rfl
@[simp] theorem State.setST_pending (b : Byte) : (s.setST b).pending = s.pending := rfl
@[simp] theorem State.setST_envCount (b : Byte) : (s.setST b).envCount = s.envCount := rfl
@[simp] theorem State.setST_outputs (b : Byte) : (s.setST b).outputs = s.outputs := rfl

/-! ### setKey -/

@[simp] theorem State.setKey_mem (k : Option Nibble) : (s.setKey k).mem = s.mem := rfl
@[simp] theorem State.setKey_V (k : Option Nibble) : (s.setKey k).V = s.V := rfl
@[simp] theorem State.setKey_I (k : Option Nibble) : (s.setKey k).I = s.I := rfl
@[simp] theorem State.setKey_pc (k : Option Nibble) : (s.setKey k).pc = s.pc := rfl
@[simp] theorem State.setKey_stack (k : Option Nibble) : (s.setKey k).stack = s.stack := rfl
@[simp] theorem State.setKey_sp (k : Option Nibble) : (s.setKey k).sp = s.sp := rfl
@[simp] theorem State.setKey_fb (k : Option Nibble) : (s.setKey k).fb = s.fb := rfl
@[simp] theorem State.setKey_DT (k : Option Nibble) : (s.setKey k).DT = s.DT := rfl
@[simp] theorem State.setKey_ST (k : Option Nibble) : (s.setKey k).ST = s.ST := rfl
@[simp] theorem State.setKey_key (k : Option Nibble) : (s.setKey k).key = k := rfl
@[simp] theorem State.setKey_mode (k : Option Nibble) : (s.setKey k).mode = s.mode := rfl
@[simp] theorem State.setKey_input (k : Option Nibble) : (s.setKey k).input = s.input := rfl
@[simp] theorem State.setKey_pending (k : Option Nibble) : (s.setKey k).pending = s.pending := rfl
@[simp] theorem State.setKey_envCount (k : Option Nibble) : (s.setKey k).envCount = s.envCount := rfl
@[simp] theorem State.setKey_outputs (k : Option Nibble) : (s.setKey k).outputs = s.outputs := rfl

/-! ### setMode -/

@[simp] theorem State.setMode_mem (m : Mode) : (s.setMode m).mem = s.mem := rfl
@[simp] theorem State.setMode_V (m : Mode) : (s.setMode m).V = s.V := rfl
@[simp] theorem State.setMode_I (m : Mode) : (s.setMode m).I = s.I := rfl
@[simp] theorem State.setMode_pc (m : Mode) : (s.setMode m).pc = s.pc := rfl
@[simp] theorem State.setMode_stack (m : Mode) : (s.setMode m).stack = s.stack := rfl
@[simp] theorem State.setMode_sp (m : Mode) : (s.setMode m).sp = s.sp := rfl
@[simp] theorem State.setMode_fb (m : Mode) : (s.setMode m).fb = s.fb := rfl
@[simp] theorem State.setMode_DT (m : Mode) : (s.setMode m).DT = s.DT := rfl
@[simp] theorem State.setMode_ST (m : Mode) : (s.setMode m).ST = s.ST := rfl
@[simp] theorem State.setMode_key (m : Mode) : (s.setMode m).key = s.key := rfl
@[simp] theorem State.setMode_mode (m : Mode) : (s.setMode m).mode = m := rfl
@[simp] theorem State.setMode_input (m : Mode) : (s.setMode m).input = s.input := rfl
@[simp] theorem State.setMode_pending (m : Mode) : (s.setMode m).pending = s.pending := rfl
@[simp] theorem State.setMode_envCount (m : Mode) : (s.setMode m).envCount = s.envCount := rfl
@[simp] theorem State.setMode_outputs (m : Mode) : (s.setMode m).outputs = s.outputs := rfl

/-! ### setInput -/

@[simp] theorem State.setInput_mem (i : StepInput) : (s.setInput i).mem = s.mem := rfl
@[simp] theorem State.setInput_V (i : StepInput) : (s.setInput i).V = s.V := rfl
@[simp] theorem State.setInput_I (i : StepInput) : (s.setInput i).I = s.I := rfl
@[simp] theorem State.setInput_pc (i : StepInput) : (s.setInput i).pc = s.pc := rfl
@[simp] theorem State.setInput_stack (i : StepInput) : (s.setInput i).stack = s.stack := rfl
@[simp] theorem State.setInput_sp (i : StepInput) : (s.setInput i).sp = s.sp := rfl
@[simp] theorem State.setInput_fb (i : StepInput) : (s.setInput i).fb = s.fb := rfl
@[simp] theorem State.setInput_DT (i : StepInput) : (s.setInput i).DT = s.DT := rfl
@[simp] theorem State.setInput_ST (i : StepInput) : (s.setInput i).ST = s.ST := rfl
@[simp] theorem State.setInput_key (i : StepInput) : (s.setInput i).key = s.key := rfl
@[simp] theorem State.setInput_mode (i : StepInput) : (s.setInput i).mode = s.mode := rfl
@[simp] theorem State.setInput_input (i : StepInput) : (s.setInput i).input = i := rfl
@[simp] theorem State.setInput_pending (i : StepInput) : (s.setInput i).pending = s.pending := rfl
@[simp] theorem State.setInput_envCount (i : StepInput) : (s.setInput i).envCount = s.envCount := rfl
@[simp] theorem State.setInput_outputs (i : StepInput) : (s.setInput i).outputs = s.outputs := rfl

/-! ### emit -/

@[simp] theorem State.emit_mem (o : Output) : (s.emit o).mem = s.mem := rfl
@[simp] theorem State.emit_V (o : Output) : (s.emit o).V = s.V := rfl
@[simp] theorem State.emit_I (o : Output) : (s.emit o).I = s.I := rfl
@[simp] theorem State.emit_pc (o : Output) : (s.emit o).pc = s.pc := rfl
@[simp] theorem State.emit_stack (o : Output) : (s.emit o).stack = s.stack := rfl
@[simp] theorem State.emit_sp (o : Output) : (s.emit o).sp = s.sp := rfl
@[simp] theorem State.emit_fb (o : Output) : (s.emit o).fb = s.fb := rfl
@[simp] theorem State.emit_DT (o : Output) : (s.emit o).DT = s.DT := rfl
@[simp] theorem State.emit_ST (o : Output) : (s.emit o).ST = s.ST := rfl
@[simp] theorem State.emit_key (o : Output) : (s.emit o).key = s.key := rfl
@[simp] theorem State.emit_mode (o : Output) : (s.emit o).mode = s.mode := rfl
@[simp] theorem State.emit_input (o : Output) : (s.emit o).input = s.input := rfl
@[simp] theorem State.emit_pending (o : Output) : (s.emit o).pending = s.pending := rfl
@[simp] theorem State.emit_envCount (o : Output) : (s.emit o).envCount = s.envCount := rfl
@[simp] theorem State.emit_outputs (o : Output) : (s.emit o).outputs = o :: s.outputs := rfl

/-! ### takeEvent -/

@[simp] theorem State.takeEvent_mem : s.takeEvent.mem = s.mem := by unfold State.takeEvent; split <;> rfl
@[simp] theorem State.takeEvent_V : s.takeEvent.V = s.V := by unfold State.takeEvent; split <;> rfl
@[simp] theorem State.takeEvent_I : s.takeEvent.I = s.I := by unfold State.takeEvent; split <;> rfl
@[simp] theorem State.takeEvent_pc : s.takeEvent.pc = s.pc := by unfold State.takeEvent; split <;> rfl
@[simp] theorem State.takeEvent_stack : s.takeEvent.stack = s.stack := by unfold State.takeEvent; split <;> rfl
@[simp] theorem State.takeEvent_sp : s.takeEvent.sp = s.sp := by unfold State.takeEvent; split <;> rfl
@[simp] theorem State.takeEvent_fb : s.takeEvent.fb = s.fb := by unfold State.takeEvent; split <;> rfl
@[simp] theorem State.takeEvent_DT : s.takeEvent.DT = s.DT := by unfold State.takeEvent; split <;> rfl
@[simp] theorem State.takeEvent_ST : s.takeEvent.ST = s.ST := by unfold State.takeEvent; split <;> rfl
@[simp] theorem State.takeEvent_key : s.takeEvent.key = s.key := by unfold State.takeEvent; split <;> rfl
@[simp] theorem State.takeEvent_mode : s.takeEvent.mode = s.mode := by unfold State.takeEvent; split <;> rfl
@[simp] theorem State.takeEvent_input : s.takeEvent.input = s.input := by unfold State.takeEvent; split <;> rfl
@[simp] theorem State.takeEvent_outputs : s.takeEvent.outputs = s.outputs := by unfold State.takeEvent; split <;> rfl

theorem State.takeEvent_pending : s.takeEvent.pending = s.pending.tail := by
  unfold State.takeEvent; split <;> simp_all

theorem State.takeEvent_envCount :
    s.takeEvent.envCount = if s.pending = [] then s.envCount + 1 else s.envCount := by
  unfold State.takeEvent; split <;> simp_all

end Sys2Proof.Machine
end

