-- ==== Sys2Proof/Laws/Reads.lean ====
section
/-!
SUPPORT. The reads `reg`, `slot`, `byteAt` and `pixel` after each single-field update and each shared operation.
-/
namespace Sys2Proof.Machine

variable (s : State)

/-- Register read after register write (spec/10_state.md R21: no register is hard-wired). -/
theorem State.reg_setReg (x y : Nibble) (b : Byte) : (s.setReg y b).reg x = if x = y then b else s.reg x := by
  simp only [State.reg, State.setReg, Vector.getElem_set, BitVec.toNat_inj]
  by_cases h : x = y
  · simp [h]
  · simp [h, Ne.symm h]

@[simp] theorem State.reg_setReg_self (x : Nibble) (b : Byte) : (s.setReg x b).reg x = b := by
  simp [State.reg_setReg]

theorem State.reg_setReg_ne (x y : Nibble) (b : Byte) (h : x ≠ y) : (s.setReg y b).reg x = s.reg x := by
  simp [State.reg_setReg, h]

/-- Slot read after slot write (R28). -/
theorem State.slot_setSlot (j k : Nibble) (w : Word) : (s.setSlot k w).slot j = if j = k then w else s.slot j := by
  simp only [State.slot, State.setSlot, Vector.getElem_set, BitVec.toNat_inj]
  by_cases h : j = k
  · simp [h]
  · simp [h, Ne.symm h]

/-- Byte read after byte write (spec/20_memory.md R64). -/
theorem State.byteAt_setByte (a a' : Nat) (b : Byte) :
    (s.setByte a b).byteAt a' = if a' = a then b else s.byteAt a' :=
  Memory.read_write s.mem a a' b

theorem State.byteAt_setMem (m : Memory) (a : Nat) : (s.setMem m).byteAt a = m.read a := rfl

/-- Pixel read after pixel write (spec/43_display.md R190). -/
theorem getPixel_setPixel (fb : Framebuffer) (r r' : Fin 32) (c c' : Fin 64) (b : Bool) :
    getPixel (setPixel fb r c b) r' c' = if r' = r ∧ c' = c then b else getPixel fb r' c' := by
  simp only [getPixel, setPixel, Vector.getElem_set]
  by_cases hr : r.val = r'.val
  · have hr' : r' = r := Fin.ext hr.symm
    subst hr'
    by_cases hc : c.val = c'.val
    · have hc' : c' = c := Fin.ext hc.symm
      simp [hc']
    · have hc' : ¬ c' = c := fun h => hc (by rw [h])
      simp [hc, hc']
  · have hr' : ¬ r' = r := fun h => hr (by rw [h])
    simp [hr, hr']

@[simp] theorem getPixel_clearFb (r : Fin 32) (c : Fin 64) : getPixel clearFb r c = false := by
  simp [getPixel, clearFb]

@[simp] theorem State.reg_setMem (x : Nibble) (m : Memory) : (s.setMem m).reg x = s.reg x := rfl
@[simp] theorem State.slot_setMem (j : Nibble) (m : Memory) : (s.setMem m).slot j = s.slot j := rfl
@[simp] theorem State.slot_setReg (j : Nibble) (y : Nibble) (b : Byte) : (s.setReg y b).slot j = s.slot j := rfl
@[simp] theorem State.byteAt_setReg (a : Nat) (y : Nibble) (b : Byte) : (s.setReg y b).byteAt a = s.byteAt a := rfl
@[simp] theorem State.reg_setI (x : Nibble) (w : Word) : (s.setI w).reg x = s.reg x := rfl
@[simp] theorem State.slot_setI (j : Nibble) (w : Word) : (s.setI w).slot j = s.slot j := rfl
@[simp] theorem State.byteAt_setI (a : Nat) (w : Word) : (s.setI w).byteAt a = s.byteAt a := rfl
@[simp] theorem State.reg_setPc (x : Nibble) (w : Word) : (s.setPc w).reg x = s.reg x := rfl
@[simp] theorem State.slot_setPc (j : Nibble) (w : Word) : (s.setPc w).slot j = s.slot j := rfl
@[simp] theorem State.byteAt_setPc (a : Nat) (w : Word) : (s.setPc w).byteAt a = s.byteAt a := rfl
@[simp] theorem State.reg_setSlot (x : Nibble) (k : Nibble) (w : Word) : (s.setSlot k w).reg x = s.reg x := rfl
@[simp] theorem State.byteAt_setSlot (a : Nat) (k : Nibble) (w : Word) : (s.setSlot k w).byteAt a = s.byteAt a := rfl
@[simp] theorem State.reg_setSp (x : Nibble) (k : Nibble) : (s.setSp k).reg x = s.reg x := rfl
@[simp] theorem State.slot_setSp (j : Nibble) (k : Nibble) : (s.setSp k).slot j = s.slot j := rfl
@[simp] theorem State.byteAt_setSp (a : Nat) (k : Nibble) : (s.setSp k).byteAt a = s.byteAt a := rfl
@[simp] theorem State.reg_setFb (x : Nibble) (fb : Framebuffer) : (s.setFb fb).reg x = s.reg x := rfl
@[simp] theorem State.slot_setFb (j : Nibble) (fb : Framebuffer) : (s.setFb fb).slot j = s.slot j := rfl
@[simp] theorem State.byteAt_setFb (a : Nat) (fb : Framebuffer) : (s.setFb fb).byteAt a = s.byteAt a := rfl
@[simp] theorem State.reg_setDT (x : Nibble) (b : Byte) : (s.setDT b).reg x = s.reg x := rfl
@[simp] theorem State.slot_setDT (j : Nibble) (b : Byte) : (s.setDT b).slot j = s.slot j := rfl
@[simp] theorem State.byteAt_setDT (a : Nat) (b : Byte) : (s.setDT b).byteAt a = s.byteAt a := rfl
@[simp] theorem State.reg_setST (x : Nibble) (b : Byte) : (s.setST b).reg x = s.reg x := rfl
@[simp] theorem State.slot_setST (j : Nibble) (b : Byte) : (s.setST b).slot j = s.slot j := rfl
@[simp] theorem State.byteAt_setST (a : Nat) (b : Byte) : (s.setST b).byteAt a = s.byteAt a := rfl
@[simp] theorem State.reg_setKey (x : Nibble) (k : Option Nibble) : (s.setKey k).reg x = s.reg x := rfl
@[simp] theorem State.slot_setKey (j : Nibble) (k : Option Nibble) : (s.setKey k).slot j = s.slot j := rfl
@[simp] theorem State.byteAt_setKey (a : Nat) (k : Option Nibble) : (s.setKey k).byteAt a = s.byteAt a := rfl
@[simp] theorem State.reg_setMode (x : Nibble) (m : Mode) : (s.setMode m).reg x = s.reg x := rfl
@[simp] theorem State.slot_setMode (j : Nibble) (m : Mode) : (s.setMode m).slot j = s.slot j := rfl
@[simp] theorem State.byteAt_setMode (a : Nat) (m : Mode) : (s.setMode m).byteAt a = s.byteAt a := rfl
@[simp] theorem State.reg_setInput (x : Nibble) (i : StepInput) : (s.setInput i).reg x = s.reg x := rfl
@[simp] theorem State.slot_setInput (j : Nibble) (i : StepInput) : (s.setInput i).slot j = s.slot j := rfl
@[simp] theorem State.byteAt_setInput (a : Nat) (i : StepInput) : (s.setInput i).byteAt a = s.byteAt a := rfl
@[simp] theorem State.reg_emit (x : Nibble) (o : Output) : (s.emit o).reg x = s.reg x := rfl
@[simp] theorem State.slot_emit (j : Nibble) (o : Output) : (s.emit o).slot j = s.slot j := rfl
@[simp] theorem State.byteAt_emit (a : Nat) (o : Output) : (s.emit o).byteAt a = s.byteAt a := rfl

@[simp] theorem State.reg_takeEvent (x : Nibble) : s.takeEvent.reg x = s.reg x := by
  unfold State.takeEvent; split <;> rfl
@[simp] theorem State.slot_takeEvent (j : Nibble) : s.takeEvent.slot j = s.slot j := by
  unfold State.takeEvent; split <;> rfl
@[simp] theorem State.byteAt_takeEvent (a : Nat) : s.takeEvent.byteAt a = s.byteAt a := by
  unfold State.takeEvent; split <;> rfl

@[simp] theorem State.reg_setByte (x : Nibble) (a : Nat) (b : Byte) : (s.setByte a b).reg x = s.reg x := rfl
@[simp] theorem State.slot_setByte (j : Nibble) (a : Nat) (b : Byte) : (s.setByte a b).slot j = s.slot j := rfl

end Sys2Proof.Machine
end

