-- ==== Sys2Proof/Laws/Frame.lean ====
section
/-!
SUPPORT. The algebra of frames: what each single-field update leaves unchanged, and how frames compose.
-/
namespace Sys2Proof.Machine

variable {s t u : State}

theorem Part.same_refl (p : Part) (s : State) : p.Same s s := by cases p <;> simp [Part.Same]

theorem Part.Same.trans {p : Part} (h : p.Same s t) (h' : p.Same t u) : p.Same s u := by
  cases p <;> simp_all [Part.Same]

theorem SameBut.refl (l : List Part) (s : State) : SameBut l s s := fun p _ => p.same_refl s

/-- Two updates one after the other leave alone what both leave alone. -/
theorem SameBut.trans {l : List Part} (h : SameBut l s t) (h' : SameBut l t u) : SameBut l s u :=
  fun p hp => (h p hp).trans (h' p hp)

theorem SameBut.mono {l l' : List Part} (h : SameBut l s t) (hl : l ⊆ l') : SameBut l' s t :=
  fun p hp => h p (fun hm => hp (hl hm))

variable (s) (l : List Part)

theorem sameBut_setPc (w : Word) (h : Part.pc ∈ l) : SameBut l s (s.setPc w) := by
  intro p hp; cases p <;> first | exact absurd h hp | simp [Part.Same]

theorem sameBut_advance (h : Part.pc ∈ l) : SameBut l s s.advance := sameBut_setPc s l _ h

theorem sameBut_skipIf (c : Bool) (h : Part.pc ∈ l) : SameBut l s (s.skipIf c) := sameBut_setPc s l _ h

theorem sameBut_setReg (x : Nibble) (b : Byte) (h : Part.reg x ∈ l) : SameBut l s (s.setReg x b) := by
  intro p hp
  cases p with
  | reg y =>
    have hy : y ≠ x := fun e => hp (e ▸ h)
    simp [Part.Same, State.reg_setReg, hy]
  | _ => simp [Part.Same]

theorem sameBut_setByte (a : Nat) (b : Byte) (h : Part.byte a ∈ l) : SameBut l s (s.setByte a b) := by
  intro p hp
  cases p with
  | byte a' =>
    have ha : a' ≠ a := fun e => hp (e ▸ h)
    simp [Part.Same, State.byteAt_setByte, ha]
  | _ => simp [Part.Same, State.setByte]

theorem sameBut_setI (w : Word) (h : Part.index ∈ l) : SameBut l s (s.setI w) := by
  intro p hp; cases p <;> first | exact absurd h hp | simp [Part.Same]

theorem sameBut_setSlot (j : Nibble) (w : Word) (h : Part.slot j ∈ l) : SameBut l s (s.setSlot j w) := by
  intro p hp
  cases p with
  | slot k =>
    have hk : k ≠ j := fun e => hp (e ▸ h)
    simp [Part.Same, State.slot_setSlot, hk]
  | _ => simp [Part.Same]

theorem sameBut_setSp (j : Nibble) (h : Part.stackPointer ∈ l) : SameBut l s (s.setSp j) := by
  intro p hp; cases p <;> first | exact absurd h hp | simp [Part.Same]

theorem sameBut_setFb (fb : Framebuffer) (h : Part.pixels ∈ l) : SameBut l s (s.setFb fb) := by
  intro p hp; cases p <;> first | exact absurd h hp | simp [Part.Same]

theorem sameBut_setDT (b : Byte) (h : Part.delay ∈ l) : SameBut l s (s.setDT b) := by
  intro p hp; cases p <;> first | exact absurd h hp | simp [Part.Same]

theorem sameBut_setST (b : Byte) (h : Part.sound ∈ l) : SameBut l s (s.setST b) := by
  intro p hp; cases p <;> first | exact absurd h hp | simp [Part.Same]

theorem sameBut_setKey (k : Option Nibble) (h : Part.keyCell ∈ l) : SameBut l s (s.setKey k) := by
  intro p hp; cases p <;> first | exact absurd h hp | simp [Part.Same]

theorem sameBut_setMode (m : Mode) (h : Part.runMode ∈ l) : SameBut l s (s.setMode m) := by
  intro p hp; cases p <;> first | exact absurd h hp | simp [Part.Same]

theorem sameBut_setInput (i : StepInput) (h : Part.environment ∈ l) : SameBut l s (s.setInput i) := by
  intro p hp; cases p <;> first | exact absurd h hp | simp [Part.Same]

theorem sameBut_emit (o : Output) (h : Part.outputLog ∈ l) : SameBut l s (s.emit o) := by
  intro p hp; cases p <;> first | exact absurd h hp | simp [Part.Same]

theorem sameBut_takeEvent (h : Part.environment ∈ l) : SameBut l s s.takeEvent := by
  intro p hp; cases p <;> first | exact absurd h hp | simp [Part.Same]

/-- Everything `raise` does (spec/60_exceptions.md R236). -/
theorem raised_raise (f : FatalFault) : Raised f s (s.raise f) :=
  ⟨rfl, rfl, (sameBut_setMode s _ _ (by simp)).trans (sameBut_emit _ _ _ (by simp))⟩

/-- Everything `stop` does (spec/40_execution_cycle.md R123). -/
theorem stop_spec : s.stop.mode = .stopped ∧ s.stop.outputs = .stopped :: s.outputs
    ∧ SameBut [.runMode, .outputLog] s s.stop :=
  ⟨rfl, rfl, (sameBut_setMode s _ _ (by simp)).trans (sameBut_emit _ _ _ (by simp))⟩

theorem sameBut_tick (hd : Part.delay ∈ l) (hs : Part.sound ∈ l) : SameBut l s s.tick :=
  (sameBut_setDT s l _ hd).trans (sameBut_setST _ l _ hs)

theorem sameBut_emitFrame (h : Part.outputLog ∈ l) : SameBut l s s.emitFrame := sameBut_emit s l _ h

end Sys2Proof.Machine
end

