-- ==== Sys2Proof/Laws/Ops.lean ====
section
/-!
SUPPORT. Each shared operation of the machine, said once: timers, the two register transfers, the ROM copy, the sprite.
-/
namespace Sys2Proof.Machine

/-- The saturating decrement is the subtraction of the natural numbers (spec/40_execution_cycle.md R130). -/
theorem decSat_toNat (b : Byte) : (decSat b).toNat = b.toNat - 1 := by
  unfold decSat
  split
  · next h => simp [h]
  · next h =>
    have hb : b.toNat ≠ 0 := fun h' => h (BitVec.eq_of_toNat_eq (by simpa using h'))
    have := b.isLt
    rw [BitVec.toNat_sub]; simp; omega

theorem ofNat_inj_of_lt {i j : Nat} (hi : i < 16) (hj : j < 16) (h : BitVec.ofNat 4 i = BitVec.ofNat 4 j) : i = j := by
  have := congrArg BitVec.toNat h
  simpa [Nat.mod_eq_of_lt hi, Nat.mod_eq_of_lt hj] using this

/-- RegDump stores V(i) at I + i for i < k, and touches nothing else (spec/45_timers_index_memory.md R217). -/
theorem dumpRegs_byteAt (s : State) (k a : Nat) : (s.dumpRegs k).byteAt a =
    if s.I.toNat ≤ a ∧ a < s.I.toNat + k then s.reg (BitVec.ofNat 4 (a - s.I.toNat)) else s.byteAt a := by
  induction k with
  | zero => simp [State.dumpRegs]
  | succ k ih =>
    rw [State.dumpRegs, State.byteAt_setByte, ih]
    unfold effAddr
    by_cases h : a = s.I.toNat + k
    · subst h; simp
    · have : (s.I.toNat ≤ a ∧ a < s.I.toNat + (k + 1)) ↔ (s.I.toNat ≤ a ∧ a < s.I.toNat + k) := by omega
      simp [h, this]

theorem mem_byteParts (base k a : Nat) : Part.byte a ∈ byteParts base k ↔ base ≤ a ∧ a < base + k := by
  simp only [byteParts, List.mem_map, List.mem_range, Part.byte.injEq]
  exact ⟨fun ⟨i, hi, h⟩ => by omega, fun h => ⟨a - base, by omega, by omega⟩⟩

theorem dumpRegs_sameBut (s : State) (k : Nat) (l : List Part) (h : ∀ i < k, Part.byte (s.I.toNat + i) ∈ l) :
    SameBut l s (s.dumpRegs k) := by
  induction k with
  | zero => exact SameBut.refl l s
  | succ k ih =>
    exact (ih (fun i hi => h i (by omega))).trans (sameBut_setByte _ l _ _ (h k (by omega)))

/-- RegLoad loads V(i) from I + i for i < k, k at most 16, and touches nothing else (R218). -/
theorem loadRegs_reg (s : State) (k : Nat) (hk : k ≤ 16) (x : Nibble) : (s.loadRegs k).reg x =
    if x.toNat < k then s.byteAt (s.I.toNat + x.toNat) else s.reg x := by
  induction k with
  | zero => simp [State.loadRegs]
  | succ k ih =>
    rw [State.loadRegs, State.reg_setReg, ih (by omega)]
    unfold effAddr
    by_cases h : x = BitVec.ofNat 4 k
    · subst h
      have : k % 16 = k := Nat.mod_eq_of_lt (by omega)
      simp [this]
    · have hx : x.toNat ≠ k := fun e => h (by rw [← e]; simp)
      have : x.toNat < k + 1 ↔ x.toNat < k := by omega
      simp [h, this]

theorem loadRegs_sameBut (s : State) (k : Nat) (l : List Part) (h : ∀ i < k, Part.reg (BitVec.ofNat 4 i) ∈ l) :
    SameBut l s (s.loadRegs k) := by
  induction k with
  | zero => exact SameBut.refl l s
  | succ k ih =>
    exact (ih (fun i hi => h i (by omega))).trans (sameBut_setReg _ l _ _ (h k (by omega)))

/-- The ROM copy puts `bs[i]` at base + i and leaves every other address alone (spec/70_reset_and_hazards.md R262). -/
theorem storeBytes_byteAt (bs : List Byte) (s : State) (base a : Nat) : (s.storeBytes base bs).byteAt a =
    if base ≤ a ∧ a < base + bs.length then bs.getD (a - base) 0#8 else s.byteAt a := by
  induction bs generalizing s base with
  | nil => simp [State.storeBytes]
  | cons b bs ih =>
    rw [State.storeBytes, ih, State.byteAt_setByte]
    by_cases h1 : a = base
    · subst h1
      have h2 : ¬ (a + 1 ≤ a) := by omega
      simp [h2]
    · by_cases h2 : base + 1 ≤ a ∧ a < base + 1 + bs.length
      · have h3 : base ≤ a ∧ a < base + (b :: bs).length := by simp; omega
        have h4 : a - base = (a - (base + 1)) + 1 := by omega
        simp only [h2, h3, and_self, if_true, h4, List.getD_cons_succ]
      · have h3 : ¬ (base ≤ a ∧ a < base + (b :: bs).length) := by simp; omega
        rw [if_neg h2, if_neg h3, if_neg h1]

theorem storeBytes_sameBut (bs : List Byte) (s : State) (base : Nat) (l : List Part)
    (h : ∀ i < bs.length, Part.byte (base + i) ∈ l) : SameBut l s (s.storeBytes base bs) := by
  induction bs generalizing s base with
  | nil => exact SameBut.refl l s
  | cons b bs ih =>
    refine (sameBut_setByte s l base b (by simpa using h 0 (by simp))).trans (ih _ _ fun i hi => ?_)
    have := h (i + 1) (by simpa using hi)
    rwa [show base + (i + 1) = base + 1 + i by omega] at this

/-! ### The sprite (spec/43_display.md R192, R193) -/

/-- Row r of the torus lies `dr` rows below the origin. -/
theorem eq_spriteRow (y0 : Byte) (k : Nat) (hk : k < 32) (r : Fin 32) :
    r = spriteRow y0 k ↔ (r.val + 256 - y0.toNat) % 32 = k := by
  have := y0.isLt
  have := r.isLt
  simp only [spriteRow, Fin.ext_iff, Fin.ofNat]
  omega

theorem eq_spriteCol (x0 : Byte) (k : Nat) (hk : k < 64) (c : Fin 64) :
    c = spriteCol x0 k ↔ (c.val + 256 - x0.toNat) % 64 = k := by
  have := x0.isLt
  have := c.isLt
  simp only [spriteCol, Fin.ext_iff, Fin.ofNat]
  omega

/-- What the first k columns of row offset `rr` cover. -/
def colsCover (x0 y0 b : Byte) (rr k : Nat) (r : Fin 32) (c : Fin 64) : Bool :=
  decide (r = spriteRow y0 rr) && decide ((c.val + 256 - x0.toNat) % 64 < k)
    && b.getLsbD (7 - (c.val + 256 - x0.toNat) % 64)

/-- The first k columns are XORed in, and a hit is a set pixel among them (R192). -/
theorem drawCols_spec (x0 y0 b : Byte) (rr k : Nat) (hk : k ≤ 8) (d : Drawing) :
    (∀ r c, getPixel (drawCols x0 y0 b rr k d).1 r c = (getPixel d.1 r c ^^ colsCover x0 y0 b rr k r c))
    ∧ ((drawCols x0 y0 b rr k d).2 = true ↔
        d.2 = true ∨ ∃ r c, getPixel d.1 r c = true ∧ colsCover x0 y0 b rr k r c = true) := by
  induction k with
  | zero => simp [drawCols, colsCover]
  | succ k ih =>
    obtain ⟨ihp, ihh⟩ := ih (by omega)
    have hcov : ∀ r c, colsCover x0 y0 b rr (k + 1) r c =
        (colsCover x0 y0 b rr k r c || (decide (r = spriteRow y0 rr ∧ c = spriteCol x0 k) && b.getLsbD (7 - k))) := by
      intro r c
      simp only [colsCover, eq_spriteCol x0 k (by omega) c]
      by_cases hr : r = spriteRow y0 rr
      · rcases Nat.lt_trichotomy ((c.val + 256 - x0.toNat) % 64) k with h | h | h
        · have h1 : (c.val + 256 - x0.toNat) % 64 < k + 1 := by omega
          have h2 : ¬ (c.val + 256 - x0.toNat) % 64 = k := by omega
          simp [hr, h, h1, h2]
        · simp [hr, h]
        · have h0 : ¬ (c.val + 256 - x0.toNat) % 64 < k := by omega
          have h1 : ¬ (c.val + 256 - x0.toNat) % 64 < k + 1 := by omega
          have h2 : ¬ (c.val + 256 - x0.toNat) % 64 = k := by omega
          simp [hr, h0, h1, h2]
      · simp [hr]
    have hnot : colsCover x0 y0 b rr k (spriteRow y0 rr) (spriteCol x0 k) = false := by
      have h := (eq_spriteCol x0 k (by omega) (spriteCol x0 k)).mp rfl
      simp [colsCover, h]
    rw [drawCols, drawPixel, spriteBit]
    by_cases hb : b.getLsbD (7 - k) = true
    · rw [if_pos hb]
      refine ⟨fun r c => ?_, ?_⟩
      · rw [getPixel_setPixel, hcov, hb]
        by_cases h : r = spriteRow y0 rr ∧ c = spriteCol x0 k
        · obtain ⟨rfl, rfl⟩ := h
          simp [ihp, hnot]
        · simp [h, ihp]
      · simp only [Bool.or_eq_true, ihh, ihp, hcov, hb, hnot, Bool.xor_false, Bool.and_true, decide_eq_true_eq]
        constructor
        · rintro ((h | ⟨r, c, h1, h2⟩) | h)
          · exact .inl h
          · exact .inr ⟨r, c, h1, .inl h2⟩
          · exact .inr ⟨_, _, h, .inr ⟨rfl, rfl⟩⟩
        · rintro (h | ⟨r, c, h1, h2 | ⟨rfl, rfl⟩⟩)
          · exact .inl (.inl h)
          · exact .inl (.inr ⟨r, c, h1, h2⟩)
          · exact .inr h1
    · rw [if_neg hb]
      have hb' : b.getLsbD (7 - k) = false := by simpa using hb
      simp only [hcov, hb', Bool.and_false, Bool.or_false]
      exact ⟨ihp, ihh⟩

/-- What the first k rows of a sprite cover. -/
def rowsCover (m : Memory) (base : Nat) (x0 y0 : Byte) (k : Nat) (r : Fin 32) (c : Fin 64) : Bool :=
  decide ((r.val + 256 - y0.toNat) % 32 < k) && decide ((c.val + 256 - x0.toNat) % 64 < 8)
    && (m.read (base + (r.val + 256 - y0.toNat) % 32)).getLsbD (7 - (c.val + 256 - x0.toNat) % 64)

theorem rowsCover_eq_spriteCovers (s : State) (base : Nat) (x0 y0 : Byte) (k : Nat) (r : Fin 32) (c : Fin 64) :
    rowsCover s.mem base x0 y0 k r c = spriteCovers s base x0 y0 k r c := rfl

/-- The sprite is XORed into the framebuffer, and a hit is a pixel of it that was set before (R192, R193). -/
theorem drawRows_spec (m : Memory) (base : Nat) (x0 y0 : Byte) (k : Nat) (hk : k < 32) (d : Drawing) :
    (∀ r c, getPixel (drawRows m base x0 y0 k d).1 r c = (getPixel d.1 r c ^^ rowsCover m base x0 y0 k r c))
    ∧ ((drawRows m base x0 y0 k d).2 = true ↔
        d.2 = true ∨ ∃ r c, getPixel d.1 r c = true ∧ rowsCover m base x0 y0 k r c = true) := by
  induction k with
  | zero => simp [drawRows, rowsCover]
  | succ k ih =>
    obtain ⟨ihp, ihh⟩ := ih (by omega)
    obtain ⟨hp, hh⟩ := drawCols_spec x0 y0 (m.read (base + k)) k 8 (by omega) (drawRows m base x0 y0 k d)
    have hcov : ∀ r c, rowsCover m base x0 y0 (k + 1) r c =
        (rowsCover m base x0 y0 k r c || colsCover x0 y0 (m.read (base + k)) k 8 r c) := by
      intro r c
      simp only [rowsCover, colsCover, eq_spriteRow y0 k (by omega) r]
      rcases Nat.lt_trichotomy ((r.val + 256 - y0.toNat) % 32) k with h | h | h
      · have h1 : (r.val + 256 - y0.toNat) % 32 < k + 1 := by omega
        have h2 : ¬ (r.val + 256 - y0.toNat) % 32 = k := by omega
        simp [h, h1, h2]
      · simp [h]
      · have h0 : ¬ (r.val + 256 - y0.toNat) % 32 < k := by omega
        have h1 : ¬ (r.val + 256 - y0.toNat) % 32 < k + 1 := by omega
        have h2 : ¬ (r.val + 256 - y0.toNat) % 32 = k := by omega
        simp [h0, h1, h2]
    have hdisj : ∀ r c, colsCover x0 y0 (m.read (base + k)) k 8 r c = true → rowsCover m base x0 y0 k r c = false := by
      intro r c h
      simp only [colsCover, Bool.and_eq_true, decide_eq_true_eq, eq_spriteRow y0 k (by omega) r] at h
      simp [rowsCover, h.1.1]
    rw [drawRows]
    refine ⟨fun r c => ?_, ?_⟩
    · rw [hp, ihp, hcov]
      by_cases h : colsCover x0 y0 (m.read (base + k)) k 8 r c = true
      · simp [h, hdisj r c h]
      · simp [Bool.eq_false_iff.mpr h]
    · rw [hh, ihh]
      simp only [hcov, Bool.or_eq_true]
      constructor
      · rintro ((h | ⟨r, c, h1, h2⟩) | ⟨r, c, h1, h2⟩)
        · exact .inl h
        · exact .inr ⟨r, c, h1, .inl h2⟩
        · refine .inr ⟨r, c, ?_, .inr h2⟩
          rw [ihp, hdisj r c h2] at h1
          simpa using h1
      · rintro (h | ⟨r, c, h1, h2 | h2⟩)
        · exact .inl (.inl h)
        · exact .inl (.inr ⟨r, c, h1, h2⟩)
        · refine .inr ⟨r, c, ?_, h2⟩
          rw [ihp, hdisj r c h2]
          simpa using h1

end Sys2Proof.Machine
end

