-- ==== Sys2Proof/Laws/Exec.lean ====
section
/-!
SUPPORT. The branches of the meanings that have more than one, as equations under the condition of each branch; the
shapes the ALU shares; and what one step can do, said once for each layer of Machine/Cycle.lean.
-/
namespace Sys2Proof.Machine

/-! ### Branches -/

theorem execRet_underflow (s : State) (h : s.sp = 0#4) :
    execRet s = .next (s.raise (.stackUnderflow s.pc (encode .ret))) := if_pos h

theorem execRet_pop (s : State) (h : s.sp ≠ 0#4) :
    execRet s = .next ((s.setSp (s.sp - 1#4)).setPc (nextPc (s.slot s.sp))) := if_neg h

theorem execCall_overflow (nnn : Addr12) (s : State) (h : s.sp = 15#4) :
    execCall nnn s = .next (s.raise (.stackOverflow s.pc (encode (.call nnn)))) := if_pos h

theorem execCall_push (nnn : Addr12) (s : State) (h : s.sp ≠ 15#4) : execCall nnn s =
    .next (((s.setSp (s.sp + 1#4)).setSlot (s.sp + 1#4) s.pc).setPc (targetOf nnn)) := if_neg h

theorem inBounds_iff (top : Nat) : inBounds top = true ↔ top ≤ 0xFFF := by simp [inBounds]

/-- DRW's bound in one comparison (spec/20_memory.md R67). -/
theorem drwInBounds_iff (s : State) (n : Nibble) :
    drwInBounds s n = true ↔ n = 0#4 ∨ s.I.toNat + n.toNat ≤ 0x1000 := by
  have h0 : n = 0#4 ↔ n.toNat = 0 := ⟨fun h => by simp [h], fun h => BitVec.eq_of_toNat_eq h⟩
  simp only [drwInBounds, Bool.or_eq_true, beq_iff_eq, inBounds_iff, drwTop, effAddr, h0]
  omega

theorem execDrw_draw (x y n : Nibble) (s : State) (hb : drwInBounds s n = true) (hf : s.input.sinkFault = false) :
    execDrw x y n s = .next (s.drawn x y n).emitFrame.advance := by simp [execDrw, hb, hf]

theorem execDrw_refused (x y n : Nibble) (s : State) (hb : drwInBounds s n = true) (hf : s.input.sinkFault = true) :
    execDrw x y n s = .next ((s.drawn x y n).raise (.hostIoFault s.pc (some (encode (.drw x y n))) .render)) := by
  simp [execDrw, hb, hf]

theorem execDrw_bound (x y n : Nibble) (s : State) (hb : drwInBounds s n = false) : execDrw x y n s =
    .next (s.raise (.memoryBoundViolation s.pc (encode (.drw x y n)) (drwTop s n))) := by simp [execDrw, hb]

theorem execLdBcd_store (x : Nibble) (s : State) (h : s.I.toNat + 2 ≤ 0xFFF) : execLdBcd x s =
    .next (((s.setByte s.I.toNat (hundreds (s.reg x))).setByte (s.I.toNat + 1) (tens (s.reg x))).setByte
      (s.I.toNat + 2) (units (s.reg x))).advance :=
  if_pos ((inBounds_iff _).mpr h)

theorem execLdBcd_bound (x : Nibble) (s : State) (h : ¬ s.I.toNat + 2 ≤ 0xFFF) : execLdBcd x s =
    .next (s.raise (.memoryBoundViolation s.pc (encode (.ldBcd x)) (s.I.toNat + 2))) :=
  if_neg (fun h' => h ((inBounds_iff _).mp h'))

theorem execRegDump_store (x : Nibble) (s : State) (h : s.I.toNat + x.toNat ≤ 0xFFF) :
    execRegDump x s = .next (s.dumpRegs (x.toNat + 1)).advance := if_pos ((inBounds_iff _).mpr h)

theorem execRegDump_bound (x : Nibble) (s : State) (h : ¬ s.I.toNat + x.toNat ≤ 0xFFF) : execRegDump x s =
    .next (s.raise (.memoryBoundViolation s.pc (encode (.regDump x)) (s.I.toNat + x.toNat))) :=
  if_neg (fun h' => h ((inBounds_iff _).mp h'))

theorem execRegLoad_load (x : Nibble) (s : State) (h : s.I.toNat + x.toNat ≤ 0xFFF) :
    execRegLoad x s = .next (s.loadRegs (x.toNat + 1)).advance := if_pos ((inBounds_iff _).mpr h)

theorem execRegLoad_bound (x : Nibble) (s : State) (h : ¬ s.I.toNat + x.toNat ≤ 0xFFF) : execRegLoad x s =
    .next (s.raise (.memoryBoundViolation s.pc (encode (.regLoad x)) (s.I.toNat + x.toNat))) :=
  if_neg (fun h' => h ((inBounds_iff _).mp h'))

/-! ### Shapes of the ALU -/

theorem flagByte_toNat (b : Bool) : (flagByte b).toNat = b.toNat := by cases b <;> rfl

theorem loadReg_sameBut (s : State) (x : Nibble) (v : Byte) : SameBut [.reg x, .pc] s (s.loadReg x v) :=
  (sameBut_setReg s _ _ _ (by simp)).trans (sameBut_advance _ _ (by simp))

@[simp] theorem loadReg_reg (s : State) (x : Nibble) (v : Byte) : (s.loadReg x v).reg x = v := by
  simp [State.loadReg, State.advance]

/-- Everything the shape "result, then flag" does: the flag is what VF ends as (spec/42_alu.md R177, R178, R180). -/
theorem resultThenFlag_spec (s : State) (x : Nibble) (v flag : Byte) :
    (s.resultThenFlag x v flag).reg VF = flag
    ∧ (x ≠ VF → (s.resultThenFlag x v flag).reg x = v)
    ∧ (s.resultThenFlag x v flag).pc = s.pc + 2#16
    ∧ SameBut [.reg x, .reg VF, .pc] s (s.resultThenFlag x v flag) :=
  ⟨by simp [State.resultThenFlag, State.advance],
   fun h => by simp [State.resultThenFlag, State.advance, State.reg_setReg, h], rfl,
   ((sameBut_setReg s _ _ _ (by simp)).trans (sameBut_setReg _ _ _ _ (by simp))).trans (sameBut_advance _ _ (by simp))⟩

/-- Everything the drawing of a sprite does before the frame (spec/43_display.md R192). -/
theorem drawn_spec (s : State) (x y n : Nibble) :
    (∀ r c, (s.drawn x y n).pixel r c
        = (s.pixel r c ^^ spriteCovers s s.I.toNat (s.reg x) (s.reg y) n.toNat r c))
    ∧ (s.drawn x y n).reg VF = flagByte (drawRows s.mem s.I.toNat (s.reg x) (s.reg y) n.toNat (s.fb, false)).2
    ∧ ((drawRows s.mem s.I.toNat (s.reg x) (s.reg y) n.toNat (s.fb, false)).2 = true ↔
        ∃ r c, s.pixel r c = true ∧ spriteCovers s s.I.toNat (s.reg x) (s.reg y) n.toNat r c = true)
    ∧ SameBut [.pixels, .reg VF] s (s.drawn x y n) := by
  have hn : n.toNat < 32 := by have := n.isLt; omega
  obtain ⟨hp, hh⟩ := drawRows_spec s.mem s.I.toNat (s.reg x) (s.reg y) n.toNat hn (s.fb, false)
  refine ⟨fun r c => hp r c, by simp [State.drawn, collisionFlag], ?_, ?_⟩
  · rw [hh]; simp only [Bool.false_eq_true, false_or]; rfl
  · exact (sameBut_setFb s _ _ (by simp)).trans (sameBut_setReg _ _ _ _ (by simp))

/-! ### One step -/

/-- What a word that is run leads to: its instruction's meaning, or the two-byte no-op. -/
theorem runWord_ok (w : Word) (i : Instr) (s : State) (h : decode w = .ok i) : runWord w s = exec i s := by
  simp [runWord, h]

theorem runWord_error (w : Word) (e : DecodeFailure) (s : State) (h : decode w = .error e) :
    runWord w s = .next s.advance := by simp [runWord, h, State.skipUndecoded]

/-- The step in a mode that is not terminal is the environment's choice (spec/40_execution_cycle.md R121). -/
theorem step_running (s : State) (h : s.mode = .running) : step s = runEvent s.nextEvent s.takeEvent := by
  simp [step, machineStep, h]

theorem step_waiting (s : State) (x : Nibble) (h : s.mode = .waitingForKey x) :
    step s = runEvent s.nextEvent s.takeEvent := by simp [step, machineStep, h]

theorem step_tick (s : State) (h : s.mode = .running ∨ ∃ x, s.mode = .waitingForKey x) (he : s.nextEvent = .tick) :
    step s = .next s.takeEvent.tick := by
  rcases h with h | ⟨x, h⟩
  · rw [step_running s h, he]; rfl
  · rw [step_waiting s x h, he]; rfl

/-- The cycle in mode Running, past its poll phase: the fetch happens in the state with the inputs latched and the key
recorded. -/
theorem step_cycle (s : State) (input : StepInput) (h : CycleStarts s input) :
    step s = fetchAndRun ((s.takeEvent.setInput input).setKey (polledKey s input.keyEvent)) := by
  obtain ⟨⟨hm, he⟩, hq, hi⟩ := h
  rw [step_running s hm, he]
  simp only [runEvent, execStep, State.setInput_mode, State.takeEvent_mode, hm, runCycle, State.setInput_input]
  cases hk : input.keyEvent with
  | noEvent =>
    have : polledKey s .noEvent = (s.takeEvent.setInput input).key := by simp [polledKey]
    rw [this]; rfl
  | key k => rfl
  | quit => exact absurd hk hq
  | ioFault => exact absurd hk hi

/-- The sample of the input source in the wait (R128). -/
theorem step_wait (s : State) (x : Nibble) (input : StepInput) (hm : s.mode = .waitingForKey x)
    (he : s.nextEvent = .exec input) : step s = waitStep x (s.takeEvent.setInput input) := by
  rw [step_waiting s x hm, he]
  simp [runEvent, execStep, hm]

theorem fetchAndRun_ok (s : State) (h : s.pc.toNat ≤ 0xFFE) :
    fetchAndRun s = runWord (s.byteAt s.pc.toNat ++ s.byteAt (s.pc.toNat + 1)) s := by
  simp [fetchAndRun, State.fetchable, h, State.wordAt, wordOfBytes]

theorem fetchAndRun_fault (s : State) (h : s.pc.toNat > 0xFFE) :
    fetchAndRun s = .next (s.raise (.fetchOutOfBounds s.pc)) := by
  have : ¬ s.pc.toNat ≤ 0xFFE := by omega
  simp [fetchAndRun, State.fetchable, this]

end Sys2Proof.Machine
end

