-- ==== Sys2Proof/Laws/Inversion.lean ====
section
/-!
SUPPORT. What a step that answers a next state can have been, said once for each layer of Machine/Cycle.lean: a statement
about every step is a case analysis over these, with no unfolding of the cycle.
-/
namespace Sys2Proof.Machine

variable {s t : State}

/-- A next state of the machine is a tick, a sample of the wait, the end of a cycle at its poll, or a cycle that comes to
its fetch (spec/40_execution_cycle.md R121, R122, R123). -/
theorem step_cases (h : step s = .next t) :
    (¬ Terminal s ∧ s.nextEvent = .tick ∧ t = s.takeEvent.tick)
    ∨ (∃ x input, s.mode = .waitingForKey x ∧ s.nextEvent = .exec input ∧ waitStep x (s.takeEvent.setInput input) = .next t)
    ∨ (∃ input, CycleOffered s input ∧ input.keyEvent = .quit ∧ t = (s.takeEvent.setInput input).stop)
    ∨ (∃ input, CycleOffered s input ∧ input.keyEvent = .ioFault
        ∧ t = (s.takeEvent.setInput input).raise (.hostIoFault s.pc none .poll))
    ∨ (∃ input, CycleStarts s input
        ∧ fetchAndRun ((s.takeEvent.setInput input).setKey (polledKey s input.keyEvent)) = .next t) := by
  cases hm : s.mode with
  | stopped => simp [step, machineStep, hm] at h
  | faulted f => simp [step, machineStep, hm] at h
  | waitingForKey x =>
    cases he : s.nextEvent with
    | tick =>
      rw [step_tick s (.inr ⟨x, hm⟩) he] at h
      cases h
      exact .inl ⟨by simp [Terminal, hm], rfl, rfl⟩
    | exec input =>
      rw [step_wait s x input hm he] at h
      exact .inr (.inl ⟨x, input, rfl, rfl, h⟩)
  | running =>
    cases he : s.nextEvent with
    | tick =>
      rw [step_tick s (.inl hm) he] at h
      cases h
      exact .inl ⟨by simp [Terminal, hm], rfl, rfl⟩
    | exec input =>
      have ho : CycleOffered s input := ⟨hm, he⟩
      by_cases hq : input.keyEvent = .quit
      · rw [step_running s hm, he] at h
        simp [runEvent, execStep, hm, runCycle, hq] at h
        exact .inr (.inr (.inl ⟨input, ho, hq, h.symm⟩))
      · by_cases hi : input.keyEvent = .ioFault
        · rw [step_running s hm, he] at h
          simp [runEvent, execStep, hm, runCycle, hi] at h
          exact .inr (.inr (.inr (.inl ⟨input, ho, hi, h.symm⟩)))
        · rw [step_cycle s input ⟨ho, hq, hi⟩] at h
          exact .inr (.inr (.inr (.inr ⟨input, ⟨ho, hq, hi⟩, h⟩)))

/-- The four ways a sample of the wait ends (R128). -/
theorem waitStep_cases {x : Nibble} (h : waitStep x s = .next t) :
    (s.input.keyEvent = .noEvent ∧ t = s)
    ∨ (s.input.keyEvent = .quit ∧ t = s.stop)
    ∨ (s.input.keyEvent = .ioFault ∧ t = s.raise (.hostIoFault s.pc none .wait))
    ∨ ∃ k : Nibble, s.input.keyEvent = .key k ∧ t = ((s.setReg x (k.setWidth 8)).advance).setMode .running := by
  unfold waitStep at h
  cases hk : s.input.keyEvent <;> rw [hk] at h <;> cases h
  · exact .inl ⟨rfl, rfl⟩
  · exact .inr (.inr (.inr ⟨_, rfl, rfl⟩))
  · exact .inr (.inl ⟨rfl, rfl⟩)
  · exact .inr (.inr (.inl ⟨rfl, rfl⟩))

/-- The three ways of a cycle past its poll: the fetch faults, the word decodes to nothing, or its instruction runs (R124,
R125). -/
theorem fetchAndRun_cases (h : fetchAndRun s = .next t) :
    (s.pc.toNat > 0xFFE ∧ t = s.raise (.fetchOutOfBounds s.pc))
    ∨ (s.pc.toNat ≤ 0xFFE ∧ t = s.advance
        ∧ ∃ e, decode (s.byteAt s.pc.toNat ++ s.byteAt (s.pc.toNat + 1)) = .error e)
    ∨ (s.pc.toNat ≤ 0xFFE
        ∧ ∃ i, decode (s.byteAt s.pc.toNat ++ s.byteAt (s.pc.toNat + 1)) = .ok i ∧ exec i s = .next t) := by
  by_cases hp : s.pc.toNat ≤ 0xFFE
  · rw [fetchAndRun_ok s hp] at h
    cases hd : decode (s.byteAt s.pc.toNat ++ s.byteAt (s.pc.toNat + 1)) with
    | ok i =>
      rw [runWord_ok _ i _ hd] at h
      exact .inr (.inr ⟨hp, i, rfl, h⟩)
    | error e =>
      rw [runWord_error _ e _ hd] at h
      cases h
      exact .inr (.inl ⟨hp, rfl, e, rfl⟩)
  · have hp' : s.pc.toNat > 0xFFE := by omega
    rw [fetchAndRun_fault s hp'] at h
    cases h
    exact .inl ⟨hp', rfl⟩

end Sys2Proof.Machine
end

