-- ==== Sys2Proof/Laws/PerInstr.lean ====
section
/-!
SUPPORT. Per-instruction laws. Family TableRow: the word an instruction encodes to is selected by the instruction's row of
the opcode table, `w AND mask = match` (spec/30_encoding.md R94).
-/
namespace Sys2Proof

theorem and_ones4 (x : Nibble) : x &&& 15#4 = x := BitVec.and_allOnes

theorem and_ones8 (x : Byte) : x &&& 255#8 = x := BitVec.and_allOnes

theorem select_nnn (op : Nibble) (nnn : Addr12) : (op ++ nnn : Word) &&& 0xF000#16 = op ++ 0#12 := by
  rw [show (0xF000#16 : Word) = (0xF#4 ++ 0#12 : BitVec (4 + 12)) from rfl, BitVec.and_append]
  simp [and_ones4]

theorem select_xkk (op x : Nibble) (kk : Byte) : (op ++ x ++ kk : Word) &&& 0xF000#16 = op ++ 0#4 ++ 0#8 := by
  rw [show (0xF000#16 : Word) = (0xF#4 ++ 0#4 ++ 0#8 : BitVec (4 + 4 + 8)) from rfl, BitVec.and_append,
    BitVec.and_append]
  simp [and_ones4]

theorem select_xy (op x y f : Nibble) : (op ++ x ++ y ++ f : Word) &&& 0xF00F#16 = op ++ 0#4 ++ 0#4 ++ f := by
  rw [show (0xF00F#16 : Word) = (0xF#4 ++ 0#4 ++ 0#4 ++ 0xF#4 : BitVec (4 + 4 + 4 + 4)) from rfl, BitVec.and_append,
    BitVec.and_append, BitVec.and_append]
  simp [and_ones4]

theorem select_xyn (op x y n : Nibble) : (op ++ x ++ y ++ n : Word) &&& 0xF000#16 = op ++ 0#4 ++ 0#4 ++ 0#4 := by
  rw [show (0xF000#16 : Word) = (0xF#4 ++ 0#4 ++ 0#4 ++ 0#4 : BitVec (4 + 4 + 4 + 4)) from rfl, BitVec.and_append,
    BitVec.and_append, BitVec.and_append]
  simp [and_ones4]

theorem select_x (op x : Nibble) (f : Byte) : (op ++ x ++ f : Word) &&& 0xF0FF#16 = op ++ 0#4 ++ f := by
  rw [show (0xF0FF#16 : Word) = (0xF#4 ++ 0#4 ++ 0xFF#8 : BitVec (4 + 4 + 8)) from rfl, BitVec.and_append,
    BitVec.and_append]
  simp [and_ones4, and_ones8]

namespace Laws.TableRow

/-- The encoded word is selected by the instruction's own row (R94). -/
def Statement (i : Instr) : Prop := encode i &&& i.rowMask = i.rowMatch

theorem sys (nnn : Addr12) : Statement (.sys nnn) := select_nnn _ _
theorem cls : Statement .cls := rfl
theorem ret : Statement .ret := rfl
theorem jp (nnn : Addr12) : Statement (.jp nnn) := select_nnn _ _
theorem call (nnn : Addr12) : Statement (.call nnn) := select_nnn _ _
theorem seImm (x : Nibble) (kk : Byte) : Statement (.seImm x kk) := select_xkk _ _ _
theorem sneImm (x : Nibble) (kk : Byte) : Statement (.sneImm x kk) := select_xkk _ _ _
theorem seReg (x y : Nibble) : Statement (.seReg x y) := select_xy _ _ _ _
theorem ldImm (x : Nibble) (kk : Byte) : Statement (.ldImm x kk) := select_xkk _ _ _
theorem addImm (x : Nibble) (kk : Byte) : Statement (.addImm x kk) := select_xkk _ _ _
theorem ldReg (x y : Nibble) : Statement (.ldReg x y) := select_xy _ _ _ _
theorem orReg (x y : Nibble) : Statement (.orReg x y) := select_xy _ _ _ _
theorem andReg (x y : Nibble) : Statement (.andReg x y) := select_xy _ _ _ _
theorem xorReg (x y : Nibble) : Statement (.xorReg x y) := select_xy _ _ _ _
theorem addReg (x y : Nibble) : Statement (.addReg x y) := select_xy _ _ _ _
theorem subReg (x y : Nibble) : Statement (.subReg x y) := select_xy _ _ _ _
theorem shr (x y : Nibble) : Statement (.shr x y) := select_xy _ _ _ _
theorem subn (x y : Nibble) : Statement (.subn x y) := select_xy _ _ _ _
theorem shl (x y : Nibble) : Statement (.shl x y) := select_xy _ _ _ _
theorem sneReg (x y : Nibble) : Statement (.sneReg x y) := select_xy _ _ _ _
theorem ldIndex (nnn : Addr12) : Statement (.ldIndex nnn) := select_nnn _ _
theorem jpV0 (nnn : Addr12) : Statement (.jpV0 nnn) := select_nnn _ _
theorem rnd (x : Nibble) (kk : Byte) : Statement (.rnd x kk) := select_xkk _ _ _
theorem drw (x y n : Nibble) : Statement (.drw x y n) := select_xyn _ _ _ _
theorem skp (x : Nibble) : Statement (.skp x) := select_x _ _ _
theorem sknp (x : Nibble) : Statement (.sknp x) := select_x _ _ _
theorem ldVxDt (x : Nibble) : Statement (.ldVxDt x) := select_x _ _ _
theorem ldVxKey (x : Nibble) : Statement (.ldVxKey x) := select_x _ _ _
theorem ldDtVx (x : Nibble) : Statement (.ldDtVx x) := select_x _ _ _
theorem ldStVx (x : Nibble) : Statement (.ldStVx x) := select_x _ _ _
theorem addIndex (x : Nibble) : Statement (.addIndex x) := select_x _ _ _
theorem ldFont (x : Nibble) : Statement (.ldFont x) := select_x _ _ _
theorem ldBcd (x : Nibble) : Statement (.ldBcd x) := select_x _ _ _
theorem regDump (x : Nibble) : Statement (.regDump x) := select_x _ _ _
theorem regLoad (x : Nibble) : Statement (.regLoad x) := select_x _ _ _

end Laws.TableRow

end Sys2Proof
end

