-- ==== Sys2Proof/Tests/Slice0.lean ====
section
/-!
SUPPORT. The model's own tests. Expected results are those of spec/95_test_vectors.md (its vector's name stands beside each
test) or are written out by hand from the encodings of spec/30_encoding.md R94. After them, for every statement that has
hypotheses, a witness that meets all of them, at the boundary values of each clause.
-/
namespace Sys2Proof.Tests

open Sys2Proof Sys2Proof.Machine

/-! ### Helpers -/

/-- One step with the word at pc, quiet inputs. -/
def stepOn (s : State) (w : Nat) : Host.Outcome State Fault Refusal := step (s.withFetchWord 16 w)

/-- The next state, or reset where there is none. -/
def stateOf (o : Host.Outcome State Fault Refusal) : State :=
  match o with
  | .next t => t
  | .fault _ => State.reset
  | .refused _ => State.reset

/-- Whether there is a next state. -/
def isNext (o : Host.Outcome State Fault Refusal) : Bool :=
  match o with
  | .next _ => true
  | .fault _ => false
  | .refused _ => false

/-- Reset with some registers set. -/
def regs (l : List (Nibble × Byte)) : State := l.foldl (fun s p => s.setReg p.1 p.2) State.reset

/-- A state with the environment's next choice given. -/
def offered (s : State) (e : EnvEvent) : State := { s with pending := [e] }

/-- Quiet inputs with another key event. -/
def keyInput (e : KeyEvent) : StepInput := { StepInput.quiet with keyEvent := e }

/-- Quiet inputs with a sink that reports failure. -/
def refusing : StepInput := { StepInput.quiet with sinkFault := true }

/-- Next state there is, and what a test looks at in it. -/
def shows (o : Host.Outcome State Fault Refusal) (p : State → Bool) : Bool := isNext o && p (stateOf o)

/-! ### WellFormed smoke: the one check, on each of its two excluded operands and on their neighbours -/

theorem test_sys_of_cls_word_refused : Instr.wellFormed (.sys 0x0E0#12) = false := by decide

theorem test_sys_of_ret_word_refused : Instr.wellFormed (.sys 0x0EE#12) = false := by decide

theorem test_sys_neighbours_accepted :
    Instr.wellFormed (.sys 0x0E1#12) = true ∧ Instr.wellFormed (.sys 0x0EF#12) = true
      ∧ Instr.wellFormed (.sys 0x000#12) = true := by decide

/-! ### Decoding: every constructor, from a word written by hand from R94 -/

theorem test_decode_sys : decode 0x0123#16 = .ok (.sys 0x123#12) := by decide
theorem test_decode_cls : decode 0x00E0#16 = .ok .cls := by decide
theorem test_decode_ret : decode 0x00EE#16 = .ok .ret := by decide
theorem test_decode_jp : decode 0x1ABC#16 = .ok (.jp 0xABC#12) := by decide
theorem test_decode_call : decode 0x2345#16 = .ok (.call 0x345#12) := by decide
theorem test_decode_seImm : decode 0x332A#16 = .ok (.seImm 3#4 0x2A#8) := by decide
theorem test_decode_sneImm : decode 0x4C7F#16 = .ok (.sneImm 0xC#4 0x7F#8) := by decide
theorem test_decode_seReg : decode 0x5AB0#16 = .ok (.seReg 0xA#4 0xB#4) := by decide
theorem test_decode_ldImm : decode 0x6FAB#16 = .ok (.ldImm 0xF#4 0xAB#8) := by decide
theorem test_decode_addImm : decode 0x7120#16 = .ok (.addImm 1#4 0x20#8) := by decide
theorem test_decode_ldReg : decode 0x8120#16 = .ok (.ldReg 1#4 2#4) := by decide
theorem test_decode_orReg : decode 0x8341#16 = .ok (.orReg 3#4 4#4) := by decide
theorem test_decode_andReg : decode 0x8562#16 = .ok (.andReg 5#4 6#4) := by decide
theorem test_decode_xorReg : decode 0x8783#16 = .ok (.xorReg 7#4 8#4) := by decide
theorem test_decode_addReg : decode 0x8AB4#16 = .ok (.addReg 0xA#4 0xB#4) := by decide
theorem test_decode_subReg : decode 0x8125#16 = .ok (.subReg 1#4 2#4) := by decide
theorem test_decode_shr : decode 0x8F16#16 = .ok (.shr 0xF#4 1#4) := by decide
theorem test_decode_subn : decode 0x8127#16 = .ok (.subn 1#4 2#4) := by decide
theorem test_decode_shl : decode 0x812E#16 = .ok (.shl 1#4 2#4) := by decide
theorem test_decode_sneReg : decode 0x9AB0#16 = .ok (.sneReg 0xA#4 0xB#4) := by decide
theorem test_decode_ldIndex : decode 0xA301#16 = .ok (.ldIndex 0x301#12) := by decide
theorem test_decode_jpV0 : decode 0xBFFE#16 = .ok (.jpV0 0xFFE#12) := by decide
theorem test_decode_rnd : decode 0xC10F#16 = .ok (.rnd 1#4 0x0F#8) := by decide
theorem test_decode_drw : decode 0xD123#16 = .ok (.drw 1#4 2#4 3#4) := by decide
theorem test_decode_skp : decode 0xE19E#16 = .ok (.skp 1#4) := by decide
theorem test_decode_sknp : decode 0xE2A1#16 = .ok (.sknp 2#4) := by decide
theorem test_decode_ldVxDt : decode 0xF207#16 = .ok (.ldVxDt 2#4) := by decide
theorem test_decode_ldVxKey : decode 0xFA0A#16 = .ok (.ldVxKey 0xA#4) := by decide
theorem test_decode_ldDtVx : decode 0xF315#16 = .ok (.ldDtVx 3#4) := by decide
theorem test_decode_ldStVx : decode 0xF418#16 = .ok (.ldStVx 4#4) := by decide
theorem test_decode_addIndex : decode 0xF51E#16 = .ok (.addIndex 5#4) := by decide
theorem test_decode_ldFont : decode 0xF629#16 = .ok (.ldFont 6#4) := by decide
theorem test_decode_ldBcd : decode 0xF733#16 = .ok (.ldBcd 7#4) := by decide
theorem test_decode_regDump : decode 0xF855#16 = .ok (.regDump 8#4) := by decide
theorem test_decode_regLoad : decode 0xF965#16 = .ok (.regLoad 9#4) := by decide

/-- C9: words beside the two literal ones are SYS. -/
theorem test_decode_beside_literals :
    decode 0x00E1#16 = .ok (.sys 0x0E1#12) ∧ decode 0x00EF#16 = .ok (.sys 0x0EF#12)
      ∧ decode 0x0000#16 = .ok (.sys 0x000#12) := by decide

/-- R102, C1 to C8: failing words, one or more of each set. -/
theorem test_decode_failures :
    decode 0x5AB1#16 = .error (.family5 1#4) ∧ decode 0x9AB1#16 = .error (.family9 1#4)
      ∧ decode 0x8AB8#16 = .error (.family8 8#4) ∧ decode 0x8ABF#16 = .error (.family8 0xF#4)
      ∧ decode 0xE19F#16 = .error (.familyE 0x9F#8) ∧ decode 0xE000#16 = .error (.familyE 0#8)
      ∧ decode 0xF1FF#16 = .error (.familyF 0xFF#8) ∧ decode 0xF000#16 = .error (.familyF 0#8) := by decide

/-- The byte order of the table's words, and what is not two bytes. -/
theorem test_decode_bytes :
    decodeTableWord 16 0x8AB4 = some (.addReg 0xA#4 0xB#4) ∧ decodeTableWord 16 0x5AB1 = none
      ∧ decodeBytes [0xD1#8, 0x23#8, 0x7F#8] = .ok (.drw 1#4 2#4 3#4, [0x7F#8])
      ∧ decodeBytes [0xD1#8] = .error .truncated := by decide

/-- R94: no two rows without the two priority rows and SYS select one word, since two rows always differ where both masks
have a bit. -/
theorem test_rows_disjoint :
    (opcodeRows.drop 2).Pairwise (fun a b => a.2 &&& a.1 &&& b.1 ≠ b.2 &&& a.1 &&& b.1) := by decide

/-! ### One step per instruction -/

/-- A1. -/
theorem test_sys : shows (stepOn State.reset 0x0123) (fun t => t.pc = 0x202#16 && t.mode = .running) = true := by decide

/-- D1: a set pixel goes, no frame comes. -/
theorem test_cls :
    shows (stepOn (State.reset.setFb (setPixel clearFb 31 63 true)) 0x00E0)
      (fun t => t.pixel 31 63 = false && t.outputs = [] && t.pc = 0x202#16) = true := by
  set_option maxRecDepth 10000 in decide

/-- A3: the return address is the CALL's own, plus 2; the slot stays. -/
theorem test_ret :
    shows (stepOn (((State.reset.setSp 1#4).setSlot 1#4 0x200#16).setPc 0x300#16) 0x00EE)
      (fun t => t.sp = 0#4 && t.pc = 0x202#16 && t.slot 1#4 = 0x200#16) = true := by decide

/-- A4. -/
theorem test_ret_underflow :
    shows (stepOn State.reset 0x00EE)
      (fun t => t.mode = .faulted (.stackUnderflow 0x200#16 0x00EE#16) && t.pc = 0x200#16 && t.sp = 0#4) = true := by decide

/-- A7. -/
theorem test_jp : shows (stepOn State.reset 0x1FFF) (fun t => t.pc = 0xFFF#16) = true := by decide

/-- A9: the deepest call. -/
theorem test_call_deepest :
    shows (stepOn (State.reset.setSp 14#4) 0x2300)
      (fun t => t.sp = 15#4 && t.slot 15#4 = 0x200#16 && t.pc = 0x300#16) = true := by decide

/-- A10. -/
theorem test_call_overflow :
    shows (stepOn (State.reset.setSp 15#4) 0x2300)
      (fun t => t.mode = .faulted (.stackOverflow 0x200#16 0x2300#16) && t.sp = 15#4 && t.pc = 0x200#16) = true := by decide

/-- A11: V0, not V3. -/
theorem test_jpV0 : shows (stepOn (regs [(0#4, 4#8), (3#4, 0x40#8)]) 0xB300) (fun t => t.pc = 0x304#16) = true := by decide

/-- A12: past the end of memory, not wrapped. -/
theorem test_jpV0_high : shows (stepOn (regs [(0#4, 0xFF#8)]) 0xBFFF) (fun t => t.pc = 0x10FE#16) = true := by decide

/-- A13, A14. -/
theorem test_seImm :
    shows (stepOn (regs [(3#4, 0x2A#8)]) 0x332A) (fun t => t.pc = 0x204#16) = true
      ∧ shows (stepOn (regs [(3#4, 0x2A#8)]) 0x332B) (fun t => t.pc = 0x202#16) = true := by decide

/-- A15, A16. -/
theorem test_sneImm :
    shows (stepOn (regs [(3#4, 0x2A#8)]) 0x432A) (fun t => t.pc = 0x202#16) = true
      ∧ shows (stepOn (regs [(3#4, 0x2A#8)]) 0x432B) (fun t => t.pc = 0x204#16) = true := by decide

/-- A17, A18. -/
theorem test_seReg :
    shows (stepOn (regs [(0xA#4, 7#8), (0xB#4, 7#8)]) 0x5AB0) (fun t => t.pc = 0x204#16) = true
      ∧ shows (stepOn (regs [(0xA#4, 7#8), (0xB#4, 8#8)]) 0x5AB0) (fun t => t.pc = 0x202#16) = true := by decide

/-- A20, A21. -/
theorem test_sneReg :
    shows (stepOn (regs [(0xA#4, 7#8), (0xB#4, 8#8)]) 0x9AB0) (fun t => t.pc = 0x204#16) = true
      ∧ shows (stepOn (regs [(0xA#4, 7#8), (0xB#4, 7#8)]) 0x9AB0) (fun t => t.pc = 0x202#16) = true := by decide

/-- A23: a skip at the end of memory does not wrap. -/
theorem test_skip_past_end :
    shows (stepOn (State.reset.setPc 0xFFE#16) 0x3000) (fun t => t.pc = 0x1002#16) = true := by decide

/-- B2. -/
theorem test_ldImm : shows (stepOn State.reset 0x6FAB) (fun t => t.reg VF = 0xAB#8) = true := by decide

/-- B3: no carry flag. -/
theorem test_addImm_wraps :
    shows (stepOn (regs [(1#4, 0xF0#8)]) 0x7120) (fun t => t.reg 1#4 = 0x10#8 && t.reg VF = 0#8) = true := by decide

/-- B5: VF as the destination. -/
theorem test_addImm_vf : shows (stepOn (regs [(0xF#4, 2#8)]) 0x7FFF) (fun t => t.reg VF = 1#8) = true := by decide

/-- B6. -/
theorem test_ldReg : shows (stepOn (regs [(2#4, 0x33#8)]) 0x8120) (fun t => t.reg 1#4 = 0x33#8) = true := by decide

/-- B7. -/
theorem test_orReg :
    shows (stepOn (regs [(1#4, 0x0F#8), (2#4, 0xF0#8), (0xF#4, 7#8)]) 0x8121)
      (fun t => t.reg 1#4 = 0xFF#8 && t.reg VF = 7#8) = true := by decide

/-- B8. -/
theorem test_andReg :
    shows (stepOn (regs [(1#4, 0x3C#8), (2#4, 0x0F#8), (0xF#4, 7#8)]) 0x8122)
      (fun t => t.reg 1#4 = 0x0C#8 && t.reg VF = 7#8) = true := by decide

/-- B9. -/
theorem test_xorReg :
    shows (stepOn (regs [(1#4, 0xFF#8), (2#4, 0x0F#8), (0xF#4, 7#8)]) 0x8123)
      (fun t => t.reg 1#4 = 0xF0#8 && t.reg VF = 7#8) = true := by decide

/-- B11. -/
theorem test_addReg_carry :
    shows (stepOn (regs [(0xA#4, 0xF0#8), (0xB#4, 0x20#8)]) 0x8AB4)
      (fun t => t.reg 0xA#4 = 0x10#8 && t.reg VF = 1#8) = true := by decide

/-- B13, B14: the flag wins in VF. -/
theorem test_addReg_vf :
    shows (stepOn (regs [(0xF#4, 0xF0#8), (0xA#4, 0x20#8)]) 0x8FA4) (fun t => t.reg VF = 1#8) = true
      ∧ shows (stepOn (regs [(0xF#4, 0x10#8), (0xA#4, 0x20#8)]) 0x8FA4) (fun t => t.reg VF = 0#8) = true := by decide

/-- B17, B18. -/
theorem test_subReg :
    shows (stepOn (regs [(1#4, 0x10#8), (2#4, 0x20#8)]) 0x8125)
      (fun t => t.reg 1#4 = 0xF0#8 && t.reg VF = 0#8) = true
    ∧ shows (stepOn (regs [(1#4, 0x20#8), (2#4, 0x20#8)]) 0x8125)
      (fun t => t.reg 1#4 = 0#8 && t.reg VF = 1#8) = true := by decide

/-- B22: VF as the subtrahend is read before the flag is written. -/
theorem test_subReg_vf :
    shows (stepOn (regs [(1#4, 5#8), (0xF#4, 3#8)]) 0x81F5) (fun t => t.reg 1#4 = 2#8 && t.reg VF = 1#8) = true := by decide

/-- B23, B24. -/
theorem test_subn :
    shows (stepOn (regs [(1#4, 0x10#8), (2#4, 0x20#8)]) 0x8127)
      (fun t => t.reg 1#4 = 0x10#8 && t.reg VF = 1#8) = true
    ∧ shows (stepOn (regs [(1#4, 0x20#8), (2#4, 0x10#8)]) 0x8127)
      (fun t => t.reg 1#4 = 0xF0#8 && t.reg VF = 0#8) = true := by decide

/-- B27: Vy is what is shifted. -/
theorem test_shr :
    shows (stepOn (regs [(1#4, 0xAA#8), (2#4, 5#8)]) 0x8126)
      (fun t => t.reg 1#4 = 2#8 && t.reg VF = 1#8 && t.reg 2#4 = 5#8) = true := by decide

/-- B31: with destination VF the third write wins. -/
theorem test_shr_vf :
    shows (stepOn (regs [(1#4, 0xFF#8), (0xF#4, 0x77#8)]) 0x8F16)
      (fun t => t.reg VF = 0#8 && t.reg 1#4 = 0xFF#8) = true := by decide

/-- B33. -/
theorem test_shl :
    shows (stepOn (regs [(1#4, 0xAA#8), (2#4, 0x81#8)]) 0x812E)
      (fun t => t.reg 1#4 = 2#8 && t.reg VF = 1#8 && t.reg 2#4 = 0x81#8) = true := by decide

/-- B37. -/
theorem test_shl_vf :
    shows (stepOn (regs [(1#4, 0x81#8)]) 0x8F1E) (fun t => t.reg VF = 2#8 && t.reg 1#4 = 0x81#8) = true := by decide

/-- B41: the drawn byte B7 under the mask 0F. -/
theorem test_rnd :
    shows (exec (.rnd 1#4 0x0F#8) (State.reset.setInput (StepInput.mk .noEvent 0xB7#8 false)))
      (fun t => t.reg 1#4 = 7#8) = true := by decide

/-- D7: the column wrap, and a row at the bottom edge. -/
theorem test_drw_wraps :
    shows (stepOn (((regs [(0#4, 0x3C#8), (1#4, 0x1F#8)]).setI 0x300#16).setByte 0x300 0xFF#8) 0xD011)
      (fun t => t.pixel 31 60 && t.pixel 31 63 && t.pixel 31 0 && t.pixel 31 3 && !t.pixel 31 4 && !t.pixel 31 59
        && t.reg VF = 0#8 && t.outputs = [.frame t.fb]) = true := by
  set_option maxRecDepth 10000 in decide

/-- D10: VF as a coordinate is read before it is written. -/
theorem test_drw_vf_coordinate :
    shows (stepOn (((regs [(0xF#4, 9#8), (0#4, 3#8)]).setI 0x300#16).setByte 0x300 0x80#8) 0xDF01)
      (fun t => t.pixel 3 9 && t.reg VF = 0#8) = true := by
  set_option maxRecDepth 10000 in decide

/-- E1, E2: a match by the low nibble. -/
theorem test_skp :
    shows (stepOn ((regs [(1#4, 0x1A#8)]).setKey (some 0xA#4)) 0xE19E)
      (fun t => t.key = none && t.pc = 0x204#16) = true := by decide

/-- E3. -/
theorem test_skp_other_key :
    shows (stepOn ((regs [(1#4, 5#8)]).setKey (some 6#4)) 0xE19E)
      (fun t => t.key = some 6#4 && t.pc = 0x202#16) = true := by decide

/-- E6, E9. -/
theorem test_sknp :
    shows (stepOn ((regs [(1#4, 0xF0#8)]).setKey (some 0#4)) 0xE1A1)
      (fun t => t.key = none && t.pc = 0x202#16) = true := by decide

/-- E7, E8. -/
theorem test_sknp_skips :
    shows (stepOn ((regs [(1#4, 5#8)]).setKey (some 6#4)) 0xE1A1)
      (fun t => t.key = some 6#4 && t.pc = 0x204#16) = true
    ∧ shows (stepOn (regs [(1#4, 5#8)]) 0xE1A1) (fun t => t.key = none && t.pc = 0x204#16) = true := by decide

/-- E10. -/
theorem test_ldVxKey :
    shows (stepOn (State.reset.setKey (some 3#4)) 0xFA0A)
      (fun t => t.mode = .waitingForKey 0xA#4 && t.pc = 0x200#16 && t.key = some 3#4 && t.reg 0xA#4 = 0#8) = true := by decide

/-- E12: the key that ends the wait. -/
theorem test_wait_ends :
    shows (step (offered ((State.reset.setMode (.waitingForKey 0xA#4)).setKey (some 3#4)) (.exec (keyInput (.key 0xC#4)))))
      (fun t => t.reg 0xA#4 = 0x0C#8 && t.pc = 0x202#16 && t.mode = .running && t.key = some 3#4) = true := by decide

/-- F1. -/
theorem test_ldVxDt : shows (stepOn (State.reset.setDT 0x3C#8) 0xF207) (fun t => t.reg 2#4 = 0x3C#8) = true := by decide

/-- F2. -/
theorem test_ldDtVx :
    shows (stepOn (regs [(2#4, 0x3C#8)]) 0xF215) (fun t => t.DT = 0x3C#8 && t.ST = 0#8) = true := by decide

/-- F3. -/
theorem test_ldStVx :
    shows (stepOn (regs [(2#4, 0x10#8)]) 0xF218) (fun t => t.ST = 0x10#8 && t.DT = 0#8) = true := by decide

/-- F4. -/
theorem test_ldIndex : shows (stepOn State.reset 0xA300) (fun t => t.I = 0x300#16) = true := by decide

/-- F6. -/
theorem test_addIndex_past_memory :
    shows (stepOn ((regs [(1#4, 1#8)]).setI 0xFFF#16) 0xF11E) (fun t => t.I = 0x1000#16 && t.reg VF = 0#8) = true := by decide

/-- F7. -/
theorem test_addIndex_wraps :
    shows (stepOn ((regs [(1#4, 2#8)]).setI 0xFFFF#16) 0xF11E) (fun t => t.I = 1#16 && t.reg VF = 0#8) = true := by decide

/-- F9, F10. -/
theorem test_ldFont :
    shows (stepOn (regs [(1#4, 0x1A#8)]) 0xF129) (fun t => t.I = 0x82#16) = true
      ∧ shows (stepOn (regs [(1#4, 0xFF#8)]) 0xF129) (fun t => t.I = 0x4FB#16) = true := by decide

/-- F11. -/
theorem test_ldBcd :
    shows (stepOn ((regs [(1#4, 0x9C#8)]).setI 0x300#16) 0xF133)
      (fun t => t.byteAt 0x300 = 1#8 && t.byteAt 0x301 = 5#8 && t.byteAt 0x302 = 6#8) = true := by decide

/-- F14. -/
theorem test_ldBcd_out_of_bounds :
    shows (stepOn ((regs [(1#4, 0xFF#8)]).setI 0xFFE#16) 0xF133)
      (fun t => t.mode = .faulted (.memoryBoundViolation 0x200#16 0xF133#16 0x1000) && t.byteAt 0xFFE = 0#8) = true := by
  decide

/-- F15. -/
theorem test_regDump :
    shows (stepOn ((regs [(0#4, 1#8), (1#4, 2#8), (2#4, 3#8), (3#4, 4#8)]).setI 0x400#16) 0xF255)
      (fun t => t.byteAt 0x400 = 1#8 && t.byteAt 0x401 = 2#8 && t.byteAt 0x402 = 3#8 && t.byteAt 0x403 = 0#8
        && t.I = 0x400#16) = true := by decide

/-- F17. -/
theorem test_regDump_out_of_bounds :
    shows (stepOn ((regs [(0#4, 0xAB#8)]).setI 0xFFF#16) 0xF155)
      (fun t => t.mode = .faulted (.memoryBoundViolation 0x200#16 0xF155#16 0x1000) && t.byteAt 0xFFF = 0#8) = true := by
  decide

/-- F19. -/
theorem test_regLoad :
    shows (stepOn (((State.reset.setI 0x400#16).setByte 0x400 9#8).setByte 0x402 7#8) 0xF265)
      (fun t => t.reg 0#4 = 9#8 && t.reg 1#4 = 0#8 && t.reg 2#4 = 7#8 && t.I = 0x400#16) = true := by decide

/-- F21. -/
theorem test_regLoad_out_of_bounds :
    shows (stepOn ((regs [(0#4, 0x55#8)]).setI 0xFF1#16) 0xFF65)
      (fun t => t.mode = .faulted (.memoryBoundViolation 0x200#16 0xFF65#16 0x1000) && t.reg 0#4 = 0x55#8) = true := by
  decide

/-! ### The cycle -/

/-- C1: an undecoded word, with equal registers: no skip. -/
theorem test_undecoded_word :
    shows (stepOn (regs [(0xA#4, 1#8), (0xB#4, 1#8)]) 0x5AB1)
      (fun t => t.pc = 0x202#16 && t.mode = .running && t.outputs = []) = true := by decide

/-- E5: the poll's key is seen by the instruction of the same cycle. -/
theorem test_poll_before_skp :
    shows (step { (((regs [(1#4, 5#8)]).setKey (some 6#4)).withFetchWord 16 0xE19E) with
        pending := [.exec (keyInput (.key 5#4))] })
      (fun t => t.key = none && t.pc = 0x204#16) = true := by decide

/-- E16: quit is examined before the word. -/
theorem test_quit_first :
    shows (step { (State.reset.withFetchWord 16 0x00EE) with pending := [.exec (keyInput .quit)] })
      (fun t => t.mode = .stopped && t.outputs = [.stopped]) = true := by decide

/-- G4: an odd pc. -/
theorem test_odd_pc :
    shows (stepOn (State.reset.setPc 0x201#16) 0x6007) (fun t => t.reg 0#4 = 7#8 && t.pc = 0x203#16) = true := by decide

/-- G5. -/
theorem test_tick :
    shows (step (offered (State.reset.setST 5#8) .tick)) (fun t => t.DT = 0#8 && t.ST = 4#8 && t.pc = 0x200#16) = true := by
  decide

/-! ### Witnesses: for every statement with hypotheses, a state and operands that meet all of them -/

/-- The first cycle of a program whose bytes at pc are given: the state as it is offered to the executor. -/
def running (s : State) (pc : Word) (hi lo : Byte) (e : KeyEvent) : State :=
  offered (((s.setPc pc).setByte pc.toNat hi).setByte (pc.toNat + 1) lo) (.exec (keyInput e))

theorem witness_DecodeOfEncode :
    Instr.wellFormed (.sys 0xFFF#12) = true ∧ Instr.wellFormed (.drw 0xF#4 0xF#4 0xF#4) = true := by decide

/-- For EncodeOfDecode and DecodeFollowsOpcodeTable alike, with a word of each kind. -/
theorem witness_EncodeOfDecode : decode 0xF0EE#16 = .error (.familyF 0xEE#8) ∧ decode 0x0FFF#16 = .ok (.sys 0xFFF#12)
    ∧ decode 0xFF65#16 = .ok (.regLoad 0xF#4) := by decide

theorem witness_FamilyZeroAlwaysDecodes :
    (0x00E0#16 : Word).extractLsb' 12 4 = 0#4 ∧ (0x00EE#16 : Word).extractLsb' 12 4 = 0#4
      ∧ (0x0FFF#16 : Word).extractLsb' 12 4 = 0#4 ∧ (0x00EF#16 : Word).extractLsb' 12 4 = 0#4 := by decide

theorem witness_StepRunsTheDecodedInstruction :
    let s := running State.reset 0xFFE#16 0x60#8 0x01#8 (.key 5#4)
    CycleStarts s (keyInput (.key 5#4)) ∧ s.pc.toNat ≤ 0xFFE
      ∧ decode (s.byteAt s.pc.toNat ++ s.byteAt (s.pc.toNat + 1)) = .ok (.ldImm 0#4 1#8) := by decide

theorem witness_UndecodedWordIsTwoByteNoOp :
    let s := running State.reset 0xFFE#16 0x5A#8 0xB1#8 .noEvent
    CycleStarts s (keyInput .noEvent) ∧ s.pc.toNat ≤ 0xFFE
      ∧ decode (s.byteAt s.pc.toNat ++ s.byteAt (s.pc.toNat + 1)) = .error (.family5 1#4) := by decide

theorem witness_QuitOrPollFailureEndsTheCycle :
    CycleOffered (running State.reset 0x200#16 0#8 0xEE#8 .quit) (keyInput .quit)
      ∧ CycleOffered (running State.reset 0xFFF#16 0#8 0#8 .ioFault) (keyInput .ioFault) := by decide

theorem witness_FetchPastMemoryFaults :
    let s := offered (State.reset.setPc 0xFFF#16) (.exec (keyInput (.key 1#4)))
    CycleStarts s (keyInput (.key 1#4)) ∧ s.pc.toNat > 0xFFE := by decide

theorem witness_KeyWaitSample :
    let waiting := State.reset.setMode (.waitingForKey 0xF#4)
    waiting.mode = .waitingForKey 0xF#4
      ∧ (offered waiting (.exec (keyInput (.key 0xF#4)))).nextEvent = .exec (keyInput (.key 0xF#4))
      ∧ (offered waiting (.exec (keyInput .quit))).nextEvent = .exec (keyInput .quit)
      ∧ (offered waiting (.exec (keyInput .ioFault))).nextEvent = .exec (keyInput .ioFault)
      ∧ (offered waiting (.exec (keyInput .noEvent))).nextEvent = .exec (keyInput .noEvent) := by decide

theorem witness_TickDecrementsBothTimers :
    let s := offered (State.reset.setDT 0xFF#8) .tick
    ((s.mode = .running ∨ ∃ x, s.mode = .waitingForKey x) ∧ s.nextEvent = .tick)
      ∧ (((s.setMode (.waitingForKey 3#4)).mode = .running ∨ ∃ x, (s.setMode (.waitingForKey 3#4)).mode = .waitingForKey x)
        ∧ (s.setMode (.waitingForKey 3#4)).nextEvent = .tick) :=
  ⟨⟨.inl rfl, rfl⟩, .inr ⟨3#4, rfl⟩, rfl⟩

theorem witness_TerminalModesHaveNoStep :
    (State.reset.setMode .stopped).mode = .stopped
      ∧ (State.reset.setMode (.faulted (.fetchOutOfBounds 0x1000#16))).mode = .faulted (.fetchOutOfBounds 0x1000#16) := by
  decide

theorem witness_EveryLiveStateHasANextState : ¬ Terminal State.reset := by
  rintro (h | ⟨f, h⟩) <;> cases h

theorem witness_RomIsCopiedVerbatim :
    (List.replicate 3584 0xAA#8).length ≤ 3584 ∧ 3584 < (List.replicate 3585 0xAA#8).length
      ∧ ([] : List Byte).length ≤ 3584 := by
  simp only [List.length_replicate, List.length_nil]
  omega

theorem witness_RetPopsTheStack :
    (State.reset.setSp 1#4).sp ≠ 0#4 ∧ (State.reset.setSp 15#4).sp ≠ 0#4 := by decide

theorem witness_RetUnderflowsExactlyWhenEmpty :
    State.reset.sp = 0#4 ∧ (State.reset.setSp 1#4).sp ≠ 0#4
      ∧ isNext (exec .ret (State.reset.setSp 1#4)) = true := by decide

theorem witness_CallPushesItsOwnAddress : State.reset.sp ≠ 15#4 ∧ (State.reset.setSp 14#4).sp ≠ 15#4 := by decide

theorem witness_CallOverflowsExactlyAtFifteen :
    (State.reset.setSp 15#4).sp = 15#4 ∧ (State.reset.setSp 14#4).sp ≠ 15#4
      ∧ isNext (exec (.call 0x300#12) (State.reset.setSp 14#4)) = true := by decide

/-- S6, the state after the CALL being the one the RET runs in, at another pc. -/
theorem witness_RetAnswersCall :
    let t := stateOf (exec (.call 0x300#12) (State.reset.setSp 14#4))
    (State.reset.setSp 14#4).sp ≠ 15#4 ∧ exec (.call 0x300#12) (State.reset.setSp 14#4) = .next t
      ∧ SameBut [.pc] t (t.setPc 0x304#16) := by
  refine ⟨by decide, rfl, ?_⟩
  intro p hp
  cases p <;> first | exact absurd (List.mem_singleton.2 rfl) hp | rfl | exact ⟨rfl, rfl, rfl⟩

/-- Destinations other than VF, and VF, for the statements on sum, difference and shifts. -/
theorem witness_destination_clauses : (0#4 : Nibble) ≠ VF ∧ (0xE#4 : Nibble) ≠ VF ∧ (0xF#4 : Nibble) = VF := by decide

/-- n = 0 with I past memory, and the last sprite byte at 0xFFF. -/
theorem witness_DrwXorsTheSprite :
    let s := State.reset.setI 0x1234#16
    let t := State.reset.setI 0xFF1#16
    ((0#4 : Nibble) = 0#4 ∨ s.I.toNat + (0#4 : Nibble).toNat ≤ 0x1000) ∧ s.input.sinkFault = false
      ∧ ((15#4 : Nibble) = 0#4 ∨ t.I.toNat + (15#4 : Nibble).toNat ≤ 0x1000) ∧ t.input.sinkFault = false := by decide

/-- S5: glyph 0 twice on a clear screen, from the reset state with I = 0; and the sprite has a set bit. -/
theorem witness_DrawingTwiceRestoresTheScreen :
    let s := State.reset
    let t := stateOf (exec (.drw 0#4 1#4 5#4) s)
    let u := stateOf (exec (.drw 0#4 1#4 5#4) t)
    (0#4 : Nibble) ≠ VF ∧ (1#4 : Nibble) ≠ VF ∧ ((5#4 : Nibble) = 0#4 ∨ s.I.toNat + (5#4 : Nibble).toNat ≤ 0x1000)
      ∧ s.input.sinkFault = false ∧ exec (.drw 0#4 1#4 5#4) s = .next t ∧ exec (.drw 0#4 1#4 5#4) t = .next u
      ∧ (∀ r c, s.pixel r c = false) ∧ (∃ r < (5#4 : Nibble).toNat, s.byteAt (s.I.toNat + r) ≠ 0#8) := by
  refine ⟨by decide, by decide, by decide, rfl, rfl, rfl, ?_, 0, by decide, by decide⟩
  intro r c
  simp [State.pixel, getPixel, State.reset]

theorem witness_OneFramePerDraw :
    let s := State.reset
    let r := State.reset.setInput refusing
    let o := State.reset.setI 0xFFF#16
    (exec (.drw 0#4 1#4 5#4) s = .next (stateOf (exec (.drw 0#4 1#4 5#4) s))
        ∧ s.I.toNat + (5#4 : Nibble).toNat ≤ 0x1000 ∧ s.input.sinkFault = false)
      ∧ (exec (.drw 0#4 1#4 0#4) r = .next (stateOf (exec (.drw 0#4 1#4 0#4) r)) ∧ r.input.sinkFault = true)
      ∧ (exec (.drw 0#4 1#4 2#4) o = .next (stateOf (exec (.drw 0#4 1#4 2#4) o))
        ∧ (2#4 : Nibble) ≠ 0#4 ∧ o.I.toNat + (2#4 : Nibble).toNat > 0x1000) :=
  ⟨⟨rfl, by decide, rfl⟩, ⟨rfl, rfl⟩, rfl, by decide, by decide⟩

theorem witness_RefusedFrameFaultsAfterDrawing :
    let s := (State.reset.setInput refusing).setI 0xFFF#16
    ((1#4 : Nibble) = 0#4 ∨ s.I.toNat + (1#4 : Nibble).toNat ≤ 0x1000) ∧ s.input.sinkFault = true := by decide

/-- Each transfer one byte past the end, and a last clause's DRW that faults so. -/
theorem witness_OutOfBoundsTransfersRaise :
    let s := State.reset.setI 0xFFF#16
    ((2#4 : Nibble) ≠ 0#4 ∧ s.I.toNat + (2#4 : Nibble).toNat - 1 > 0xFFF)
      ∧ (State.reset.setI 0xFFE#16).I.toNat + 2 > 0xFFF ∧ s.I.toNat + (1#4 : Nibble).toNat > 0xFFF
      ∧ (exec (.drw 0#4 1#4 2#4) s = .next (stateOf (exec (.drw 0#4 1#4 2#4) s))
        ∧ (stateOf (exec (.drw 0#4 1#4 2#4) s)).mode = .faulted (.memoryBoundViolation 0x200#16 0xD012#16 0x1000)
        ∧ s.mode ≠ (stateOf (exec (.drw 0#4 1#4 2#4) s)).mode) := by
  refine ⟨by decide, by decide, by decide, rfl, by decide, by decide⟩

theorem witness_SkpConsumesAndSkips :
    (∃ k, ((regs [(1#4, 0x1A#8)]).setKey (some 0xA#4)).key = some k
        ∧ k.toNat = (((regs [(1#4, 0x1A#8)]).setKey (some 0xA#4)).reg 1#4).toNat % 16)
      ∧ ¬ ∃ k, State.reset.key = some k ∧ k.toNat = (State.reset.reg 1#4).toNat % 16 :=
  ⟨⟨0xA#4, by decide, by decide⟩, fun ⟨_, h, _⟩ => by cases h⟩

theorem witness_SknpConsumesWithoutSkip :
    (∃ k, ((regs [(1#4, 0xF0#8)]).setKey (some 0#4)).key = some k
        ∧ k.toNat = (((regs [(1#4, 0xF0#8)]).setKey (some 0#4)).reg 1#4).toNat % 16)
      ∧ ¬ ∃ k, (State.reset.setKey (some 6#4)).key = some k ∧ k.toNat = ((State.reset.setKey (some 6#4)).reg 1#4).toNat % 16 :=
  ⟨⟨0#4, by decide, by decide⟩, fun ⟨k, h, e⟩ => by cases h; revert e; decide⟩

/-- The last address that fits, and the first that does not. -/
theorem witness_BcdDigitsAreStored :
    (State.reset.setI 0xFFD#16).I.toNat + 2 ≤ 0xFFF ∧ (State.reset.setI 0xFFE#16).I.toNat + 2 > 0xFFF := by decide

theorem witness_RegDumpStoresV0ToVx :
    (State.reset.setI 0xFF0#16).I.toNat + (15#4 : Nibble).toNat ≤ 0xFFF
      ∧ (15#4 : Nibble).toNat ≤ (15#4 : Nibble).toNat ∧ (0#4 : Nibble).toNat ≤ (0#4 : Nibble).toNat := by decide

theorem witness_RegLoadLoadsV0ToVx :
    (State.reset.setI 0xFFF#16).I.toNat + (0#4 : Nibble).toNat ≤ 0xFFF
      ∧ (State.reset.setI 0xFF0#16).I.toNat + (15#4 : Nibble).toNat ≤ 0xFFF := by decide

/-- RegDump at 0x200 stores LD VA, 5 at 0x202, where the next cycle fetches it. -/
theorem witness_StoredWordIsFetchedNext :
    let s := offered ((regs [(0#4, 0x6A#8), (1#4, 5#8)]).setI 0x202#16) (.exec StepInput.quiet)
    let t := stateOf (exec (.regDump 1#4) s)
    s.I.toNat + (1#4 : Nibble).toNat ≤ 0xFFF ∧ exec (.regDump 1#4) s = .next t ∧ (0#4 : Nibble).toNat + 1 ≤ (1#4 : Nibble).toNat
      ∧ t.pc.toNat = s.I.toNat + (0#4 : Nibble).toNat ∧ CycleStarts t StepInput.quiet
      ∧ decode (s.reg 0#4 ++ s.reg (0#4 + 1#4)) = .ok (.ldImm 0xA#4 5#8) := by
  refine ⟨by decide, rfl, by decide, by decide, by decide, by decide⟩

theorem witness_MemoryWrittenOnlyByStores :
    let s := (regs [(1#4, 0xFF#8)]).setI 0x300#16
    (exec (.ldBcd 1#4) s = .next (stateOf (exec (.ldBcd 1#4) s))
        ∧ (stateOf (exec (.ldBcd 1#4) s)).byteAt 0x302 ≠ s.byteAt 0x302)
      ∧ (exec (.regDump 1#4) s = .next (stateOf (exec (.regDump 1#4) s))
        ∧ (stateOf (exec (.regDump 1#4) s)).byteAt 0x301 ≠ s.byteAt 0x301) :=
  ⟨⟨rfl, by decide⟩, rfl, by decide⟩

theorem witness_RegistersWrittenOnlyAsListed :
    let s := regs [(1#4, 0xFF#8), (2#4, 1#8)]
    exec (.addReg 1#4 2#4) s = .next (stateOf (exec (.addReg 1#4 2#4) s))
      ∧ (stateOf (exec (.addReg 1#4 2#4) s)).reg VF ≠ s.reg VF := ⟨rfl, by decide⟩

/-- One instruction for each clause, that changes the part the clause names. -/
theorem witness_SpecialStateHasItsOwners :
    let s := (regs [(1#4, 3#8)]).setKey (some 3#4)
    ((stateOf (exec (.ldIndex 0x300#12) s)).I ≠ s.I ∧ exec (.ldIndex 0x300#12) s = .next (stateOf (exec (.ldIndex 0x300#12) s)))
      ∧ ((stateOf (exec (.call 0x300#12) s)).sp ≠ s.sp ∧ (stateOf (exec (.call 0x300#12) s)).slot 1#4 ≠ s.slot 1#4
        ∧ exec (.call 0x300#12) s = .next (stateOf (exec (.call 0x300#12) s)))
      ∧ ((stateOf (exec (.ldDtVx 1#4) s)).DT ≠ s.DT ∧ exec (.ldDtVx 1#4) s = .next (stateOf (exec (.ldDtVx 1#4) s)))
      ∧ ((stateOf (exec (.ldStVx 1#4) s)).ST ≠ s.ST ∧ exec (.ldStVx 1#4) s = .next (stateOf (exec (.ldStVx 1#4) s)))
      ∧ ((stateOf (exec (.skp 1#4) s)).key ≠ s.key ∧ exec (.skp 1#4) s = .next (stateOf (exec (.skp 1#4) s))) :=
  ⟨⟨by decide, rfl⟩, ⟨by decide, by decide, rfl⟩, ⟨by decide, rfl⟩, ⟨by decide, rfl⟩, by decide, rfl⟩

theorem witness_SpecialStateHasItsOwners_pixels :
    let s := State.reset.setFb (setPixel clearFb 0 0 true)
    (stateOf (exec .cls s)).fb ≠ s.fb ∧ exec .cls s = .next (stateOf (exec .cls s)) := by
  refine ⟨fun h => ?_, rfl⟩
  have := congrArg (fun fb => getPixel fb 0 0) h
  revert this
  decide

/-- A fault of an instruction, and the fault of a refused frame. -/
theorem witness_FaultsArePrecise :
    let s := State.reset
    let r := State.reset.setInput refusing
    (exec .ret s = .next (stateOf (exec .ret s))
        ∧ (stateOf (exec .ret s)).mode = .faulted (.stackUnderflow 0x200#16 0x00EE#16)
        ∧ s.mode ≠ .faulted (.stackUnderflow 0x200#16 0x00EE#16))
      ∧ (exec (.drw 0#4 1#4 0#4) r = .next (stateOf (exec (.drw 0#4 1#4 0#4) r))
        ∧ (stateOf (exec (.drw 0#4 1#4 0#4) r)).mode = .faulted (.hostIoFault 0x200#16 (some 0xD010#16) .render)
        ∧ r.mode ≠ .faulted (.hostIoFault 0x200#16 (some 0xD010#16) .render)) :=
  ⟨⟨rfl, by decide, by decide⟩, rfl, by decide, by decide⟩

theorem witness_DelayTimerRisesOnlyByLoad :
    let s := running (regs [(2#4, 1#8)]) 0x200#16 0xF2#8 0x15#8 .noEvent
    step s = .next (stateOf (step s)) ∧ (stateOf (step s)).DT.toNat > s.DT.toNat := ⟨rfl, by decide⟩

/-- A step of each agent, with slots and ST that are not 0. -/
theorem witness_SlotZeroIsNeverWritten :
    let s := running (State.reset.setSlot 0#4 0x123#16) 0x200#16 0x23#8 0x00#8 .noEvent
    let r := offered (State.reset.setSlot 0#4 0x123#16) .tick
    step s = .next (stateOf (step s)) ∧ step r = .next (stateOf (step r)) := ⟨rfl, rfl⟩

theorem witness_SoundTimerIsNeverObserved :
    let s := running (State.reset.setST 9#8) 0x200#16 0x60#8 0x01#8 .noEvent
    let r := offered (State.reset.setST 9#8) .tick
    step s = .next (stateOf (step s)) ∧ step r = .next (stateOf (step r)) := ⟨rfl, rfl⟩

/-- A state whose memory lists bytes, among them a font byte overwritten (R62), and a step that stores. -/
theorem witness_StepsKeepMemoryCanonical :
    let s := running ((regs [(0#4, 0x7F#8)]).setByte 0x004 0x11#8) 0x200#16 0xF0#8 0x55#8 .noEvent
    MemCanonical s ∧ step s = .next (stateOf (step s)) := by
  refine ⟨?_, rfl⟩
  unfold MemCanonical
  decide

/-- A CALL at the last word of memory, with a full return address in a slot. -/
theorem witness_StepsKeepPcBounded :
    let s := running (State.reset.setSlot 3#4 0xFFE#16) 0xFFE#16 0x2F#8 0xFF#8 .noEvent
    PcBounded s ∧ step s = .next (stateOf (step s)) := by
  refine ⟨⟨by decide, by decide, fun x h => by cases h⟩, rfl⟩

/-- A wait that a key does not end, and the cycle that enters it. -/
theorem witness_StepsKeepTheWaitWord :
    let s := (running State.reset 0x200#16 0xFA#8 0x0A#8 .noEvent).setMode (.waitingForKey 0xA#4)
    let r := running State.reset 0x200#16 0xFA#8 0x0A#8 .noEvent
    (WaitWordAtPc s ∧ step s = .next (stateOf (step s))) ∧ (WaitWordAtPc r ∧ step r = .next (stateOf (step r))) := by
  refine ⟨⟨fun x h => ?_, rfl⟩, fun x h => (by cases h), rfl⟩
  cases h
  decide

end Sys2Proof.Tests
end

section
/-!
PROOFS. Encoding (spec/30_encoding.md): family 0 of the decoder.
-/
namespace Sys2Proof

/-- R95: the dispatch on the high nibble reads a word of family 0 as SYS. -/
theorem decodeFamily_of_fieldOp_zero (w : Word) (h : fieldOp w = 0#4) : decodeFamily w = .ok (.sys (fieldNnn w)) := by
  simp only [decodeFamily, h]

/-- Settles O4: `decode` takes the two literal words out first, in the statement's order, and hands every other word to
`decodeFamily`, which reads family 0 as SYS. -/
theorem familyZeroAlwaysDecodes : Obligations.FamilyZeroAlwaysDecodes := by
  intro w hop
  unfold decode
  split
  case isTrue => rfl
  case isFalse =>
    split
    case isTrue => rfl
    case isFalse => exact decodeFamily_of_fieldOp_zero w hop

end Sys2Proof
end

section
/-!
PROOFS. The execution cycle (spec/40_execution_cycle.md): the timer step.
-/
namespace Sys2Proof
open Machine

/-- Everything `tick` does (R130). -/
theorem tick_spec (s : State) : s.tick.DT.toNat = s.DT.toNat - 1 ∧ s.tick.ST.toNat = s.ST.toNat - 1
    ∧ SameBut [.delay, .sound] s s.tick :=
  ⟨decSat_toNat s.DT, decSat_toNat s.ST, sameBut_tick s _ (by simp) (by simp)⟩

/-- Settles O12: in both live modes the step takes the environment's choice, which leaves the timers alone, and ticks. -/
theorem tickDecrementsBothTimers : Obligations.TickDecrementsBothTimers := by
  intro s hlive htick
  obtain ⟨hDT, hST, hframe⟩ := tick_spec s.takeEvent
  rw [State.takeEvent_DT] at hDT
  rw [State.takeEvent_ST] at hST
  refine ⟨s.takeEvent.tick, step_tick s hlive htick, hDT, hST, ?_⟩
  exact (sameBut_takeEvent s _ (by simp)).trans (hframe.mono (by simp))

end Sys2Proof
end

section
/-!
PROOFS. Control flow (spec/41_system_control_flow.md): SYS and JP.
-/
namespace Sys2Proof.Machine

/-- R126: the pc after an advance. -/
@[simp] theorem State.advance_pc (s : State) : s.advance.pc = s.pc + 2#16 := State.setPc_pc s _

/-- R92: widening loses no bit of the operand, a 12-bit address being shorter than a word. -/
@[simp] theorem targetOf_toNat (nnn : Addr12) : (targetOf nnn).toNat = nnn.toNat :=
  BitVec.toNat_setWidth_of_le (by decide)

/-- R150: SYS is the bare advance, whatever its operand. -/
theorem exec_sys (nnn : Addr12) (s : State) : exec (.sys nnn) s = .next s.advance := rfl

/-- R152: JP is the bare jump. -/
theorem exec_jp (nnn : Addr12) (s : State) : exec (.jp nnn) s = .next (s.setPc (targetOf nnn)) := rfl

end Sys2Proof.Machine

namespace Sys2Proof
open Machine

/-- Settles O18: the advance writes pc alone. -/
theorem sysOnlyAdvances : Obligations.SysOnlyAdvances := by
  intro s nnn
  exact ⟨s.advance, exec_sys nnn s, State.advance_pc s, sameBut_advance s _ (by simp)⟩

/-- Settles O21: the jump writes pc alone, and zero extension keeps the operand's value. -/
theorem jpSetsPc : Obligations.JpSetsPc := by
  intro s nnn
  refine ⟨s.setPc (targetOf nnn), exec_jp nnn s, ?_, sameBut_setPc s _ _ (by simp)⟩
  rw [State.setPc_pc, targetOf_toNat]

end Sys2Proof
end

section
/-!
PROOFS. Register arithmetic (spec/42_alu.md): OR, AND, XOR and RND.
-/
namespace Sys2Proof.Machine

/-- Everything a load of Vx does (R170, R126). -/
theorem loadReg_spec (s : State) (x : Nibble) (v : Byte) :
    (s.loadReg x v).reg x = v ∧ (s.loadReg x v).pc = s.pc + 2#16 ∧ SameBut [.reg x, .pc] s (s.loadReg x v) :=
  ⟨loadReg_reg s x v, State.advance_pc (s.setReg x v), loadReg_sameBut s x v⟩

/-- R174: OR is a load of Vx and no more. -/
theorem exec_orReg (x y : Nibble) (s : State) : exec (.orReg x y) s = .next (s.loadReg x (s.reg x ||| s.reg y)) := rfl

/-- R175: AND is a load of Vx and no more. -/
theorem exec_andReg (x y : Nibble) (s : State) : exec (.andReg x y) s = .next (s.loadReg x (s.reg x &&& s.reg y)) := rfl

/-- R176: XOR is a load of Vx and no more. -/
theorem exec_xorReg (x y : Nibble) (s : State) : exec (.xorReg x y) s = .next (s.loadReg x (s.reg x ^^^ s.reg y)) := rfl

/-- R182: RND is a load of Vx and no more; the byte drawn is the step's input. -/
theorem exec_rnd (x : Nibble) (kk : Byte) (s : State) : exec (.rnd x kk) s = .next (s.loadReg x (s.input.rnd &&& kk)) := rfl

end Sys2Proof.Machine

namespace Sys2Proof
open Machine

/-- Settles O28: each of the three loads the combined byte into Vx, and the bits of the combination are the combinations
of the bits. -/
theorem bitwiseOperations : Obligations.BitwiseOperations := by
  refine ⟨fun s x y => ?or, fun s x y => ?and, fun s x y => ?xor⟩
  case or =>
    obtain ⟨hreg, hpc, hframe⟩ := loadReg_spec s x (s.reg x ||| s.reg y)
    exact ⟨_, exec_orReg x y s, fun n => by rw [hreg, BitVec.getLsbD_or], hpc, hframe⟩
  case and =>
    obtain ⟨hreg, hpc, hframe⟩ := loadReg_spec s x (s.reg x &&& s.reg y)
    exact ⟨_, exec_andReg x y s, fun n => by rw [hreg, BitVec.getLsbD_and], hpc, hframe⟩
  case xor =>
    obtain ⟨hreg, hpc, hframe⟩ := loadReg_spec s x (s.reg x ^^^ s.reg y)
    exact ⟨_, exec_xorReg x y s, fun n => by rw [hreg, BitVec.getLsbD_xor], hpc, hframe⟩

/-- Settles O32: RND loads the masked byte into Vx, whatever byte the step's input holds. -/
theorem rndMasksTheDrawnByte : Obligations.RndMasksTheDrawnByte := by
  intro s x kk
  exact ⟨_, exec_rnd x kk s, loadReg_spec s x (s.input.rnd &&& kk)⟩

end Sys2Proof
end

section
/-!
PROOFS. Keypad (spec/44_keypad.md): SKP.
-/
namespace Sys2Proof.Machine

@[simp] theorem State.skipIf_key (s : State) (c : Bool) : (s.skipIf c).key = s.key := rfl

/-- R126, R159: the pc after a skip. -/
@[simp] theorem State.skipIf_true_pc (s : State) : (s.skipIf true).pc = s.pc + 4#16 := State.setPc_pc s _

/-- R126: the pc where the skip's condition fails. -/
@[simp] theorem State.skipIf_false_pc (s : State) : (s.skipIf false).pc = s.pc + 2#16 := State.setPc_pc s _

/-- R204: the bits V[x][3:0] as a number. -/
@[simp] theorem lowNibble_toNat (b : Byte) : (lowNibble b).toNat = b.toNat % 16 := by
  simp [lowNibble, BitVec.extractLsb'_toNat]

/-- R204: what a match says about the key cell. -/
theorem State.keyMatches_iff (s : State) (x : Nibble) :
    s.keyMatches x = true ↔ ∃ k, s.key = some k ∧ k.toNat = (s.reg x).toNat % 16 := by
  rw [State.keyMatches, beq_iff_eq]
  constructor
  case mp =>
    intro hkey
    exact ⟨lowNibble (s.reg x), hkey, lowNibble_toNat (s.reg x)⟩
  case mpr =>
    rintro ⟨k, hkey, hk⟩
    have hlow : k = lowNibble (s.reg x) := BitVec.eq_of_toNat_eq (by rw [hk, lowNibble_toNat])
    rw [hkey, hlow]

/-- R201: a match empties the key cell and skips. -/
theorem exec_skp_match (x : Nibble) (s : State) (h : s.keyMatches x = true) :
    exec (.skp x) s = .next ((s.setKey none).skipIf true) := if_pos h

/-- R201: without a match SKP is the bare advance past its own word. -/
theorem exec_skp_noMatch (x : Nibble) (s : State) (h : ¬ s.keyMatches x = true) :
    exec (.skp x) s = .next (s.skipIf false) := if_neg h

end Sys2Proof.Machine

namespace Sys2Proof
open Machine

/-- Settles O39: the two clauses are the two outcomes of the test for a match. -/
theorem skpConsumesAndSkips : Obligations.SkpConsumesAndSkips := by
  intro s x
  rw [← State.keyMatches_iff]
  by_cases hmatch : s.keyMatches x = true
  case pos =>
    refine ⟨_, exec_skp_match x s hmatch, fun _ => ⟨?key, ?pc⟩, fun hno => absurd hmatch hno, ?frame⟩
    case key => rw [State.skipIf_key, State.setKey_key]
    case pc => rw [State.skipIf_true_pc, State.setKey_pc]
    case frame => exact (sameBut_setKey s _ _ (by simp)).trans (sameBut_skipIf _ _ _ (by simp))
  case neg =>
    exact ⟨_, exec_skp_noMatch x s hmatch, fun hyes => absurd hyes hmatch,
      fun _ => ⟨State.skipIf_key s false, State.skipIf_false_pc s⟩, sameBut_skipIf s _ _ (by simp)⟩

end Sys2Proof
end

section
/-!
PROOFS. Timers and index register (spec/45_timers_index_memory.md): the timer moves and LD F.
-/
namespace Sys2Proof.Machine

@[simp] theorem State.advance_I (s : State) : s.advance.I = s.I := rfl
@[simp] theorem State.advance_DT (s : State) : s.advance.DT = s.DT := rfl
@[simp] theorem State.advance_ST (s : State) : s.advance.ST = s.ST := rfl

/-- R126: the advance after a write of one part other than pc starts from the pc before that write. -/
theorem advance_after_write {s t : State} {p : Part} (hframe : SameBut [p] s t) (hp : p ≠ .pc) :
    t.advance.pc = s.pc + 2#16 ∧ SameBut [p, .pc] s t.advance := by
  have hpc : t.pc = s.pc := hframe .pc (by simpa using hp.symm)
  refine ⟨by rw [State.advance_pc, hpc], ?_⟩
  exact (hframe.mono (by simp)).trans (sameBut_advance t _ (by simp))

/-- R215: the product fits a word, since 5 * 255 is below 65536; so the glyph's address is not reduced. -/
@[simp] theorem glyphAddr_toNat (b : Byte) : (glyphAddr b).toNat = 5 * b.toNat := by
  have hfits : 5 * b.toNat < 2 ^ 16 := by have := b.isLt; omega
  exact (BitVec.toNat_ofNat _ _).trans (Nat.mod_eq_of_lt hfits)

/-- R210: LD Vx, DT is a load of Vx and no more. -/
theorem exec_ldVxDt (x : Nibble) (s : State) : exec (.ldVxDt x) s = .next (s.loadReg x s.DT) := rfl

/-- R211: LD DT, Vx writes the delay cell and advances. -/
theorem exec_ldDtVx (x : Nibble) (s : State) : exec (.ldDtVx x) s = .next (s.setDT (s.reg x)).advance := rfl

/-- R212: LD ST, Vx writes the sound cell and advances. -/
theorem exec_ldStVx (x : Nibble) (s : State) : exec (.ldStVx x) s = .next (s.setST (s.reg x)).advance := rfl

/-- R215: LD F, Vx writes the glyph's address into I and advances. -/
theorem exec_ldFont (x : Nibble) (s : State) : exec (.ldFont x) s = .next (s.setI (glyphAddr (s.reg x))).advance := rfl

end Sys2Proof.Machine

namespace Sys2Proof
open Machine

/-- Settles O42: the first move is a load of Vx, the other two are a write of one timer cell and the advance. -/
theorem timerMoves : Obligations.TimerMoves := by
  refine ⟨fun s x => ?readDelay, fun s x => ?writeDelay, fun s x => ?writeSound⟩
  case readDelay => exact ⟨_, exec_ldVxDt x s, loadReg_spec s x s.DT⟩
  case writeDelay =>
    refine ⟨_, exec_ldDtVx x s, ?_, advance_after_write (sameBut_setDT s _ _ (by simp)) (by simp)⟩
    rw [State.advance_DT, State.setDT_DT]
  case writeSound =>
    refine ⟨_, exec_ldStVx x s, ?_, advance_after_write (sameBut_setST s _ _ (by simp)) (by simp)⟩
    rw [State.advance_ST, State.setST_ST]

/-- Settles O44: I is loaded with the glyph's address, which as a number is the unreduced product. -/
theorem fontAddressIsFiveTimesVx : Obligations.FontAddressIsFiveTimesVx := by
  intro s x
  refine ⟨_, exec_ldFont x s, ?_, advance_after_write (sameBut_setI s _ _ (by simp)) (by simp)⟩
  rw [State.advance_I, State.setI_I, glyphAddr_toNat]

end Sys2Proof
end

section
/-!
PROOFS. Exceptions (spec/60_exceptions.md): StackUnderflow.
-/
namespace Sys2Proof.Machine

/-- R231: RET on an empty stack raises StackUnderflow and no more; the record holds RET's one word. -/
theorem exec_ret_underflow (s : State) (h : s.sp = 0#4) :
    exec .ret s = .next (s.raise (.stackUnderflow s.pc 0x00EE#16)) := execRet_underflow s h

/-- R151: RET on a stack that is not empty writes sp and pc and no more. -/
theorem exec_ret_pop (s : State) (h : s.sp ≠ 0#4) :
    exec .ret s = .next ((s.setSp (s.sp - 1#4)).setPc (nextPc (s.slot s.sp))) := execRet_pop s h

end Sys2Proof.Machine

namespace Sys2Proof
open Machine

/-- Settles O20: the two clauses are RET's two branches. The first only raises; the second writes sp and pc, and neither
write reaches the mode. -/
theorem retUnderflowsExactlyWhenEmpty : Obligations.RetUnderflowsExactlyWhenEmpty := by
  intro s
  constructor
  case left =>
    intro hempty
    exact ⟨_, exec_ret_underflow s hempty, raised_raise s _⟩
  case right =>
    intro hsp t hret
    obtain rfl := Host.Outcome.next.inj ((exec_ret_pop s hsp).symm.trans hret)
    rw [State.setPc_mode, State.setSp_mode]

end Sys2Proof
end

section
/-!
PROOFS. Encoding (spec/30_encoding.md): the round trips, the opcode table and the words that fail.
-/
namespace Sys2Proof

/-- R95: SYS comes back where its word is neither of the two literal words. -/
theorem decode_sys (nnn : Addr12) (h : sysOperandOk nnn = true) : decode (0x0#4 ++ nnn) = .ok (.sys nnn) := by
  have hne (v : Word) (hv : nnn ≠ fieldNnn v) : (0x0#4 ++ nnn : Word) ≠ v := by
    rintro rfl
    exact hv (fieldNnn_nnn _ _).symm
  obtain ⟨hcls, hret⟩ : nnn ≠ 0x0E0#12 ∧ nnn ≠ 0x0EE#12 := by simpa [sysOperandOk] using h
  rw [decode, if_neg (hne 0x00E0#16 hcls), if_neg (hne 0x00EE#16 hret),
    decodeFamily_of_fieldOp_zero _ (fieldOp_nnn _ _), fieldNnn_nnn]

/-- Settles O1: outside family 0 the dispatch on the high nibble sees the fields the word was put together from; the groups
below are the operand formats of R91. -/
theorem decodeOfEncode : Obligations.DecodeOfEncode := by
  intro i hwf
  cases i with
  | sys nnn => exact decode_sys nnn hwf
  | cls | ret => rfl
  | jp nnn | call nnn | ldIndex nnn | jpV0 nnn =>
    simp [encode, decode_eq_decodeFamily, decodeFamily, fieldOp_nnn, fieldNnn_nnn]
  | seImm x kk | sneImm x kk | ldImm x kk | addImm x kk | rnd x kk =>
    simp [encode, decode_eq_decodeFamily, decodeFamily, fieldOp_xkk, fieldX_xkk, fieldKk_xkk]
  | seReg x y | sneReg x y =>
    simp [encode, decode_eq_decodeFamily, decodeFamily, fieldOp_xyn, fieldX_xyn, fieldY_xyn, fieldN_xyn]
  | drw x y n =>
    simp [encode, decode_eq_decodeFamily, decodeFamily, fieldOp_xyn, fieldX_xyn, fieldY_xyn, fieldN_xyn]
  | ldReg x y | orReg x y | andReg x y | xorReg x y | addReg x y | subReg x y | shr x y | subn x y | shl x y =>
    simp [encode, decode_eq_decodeFamily, decodeFamily, decode8, fieldOp_xyn, fieldX_xyn, fieldY_xyn, fieldN_xyn]
  | skp x | sknp x =>
    simp [encode, decode_eq_decodeFamily, decodeFamily, decodeE, fieldOp_xkk, fieldX_xkk, fieldKk_xkk]
  | ldVxDt x | ldVxKey x | ldDtVx x | ldStVx x | addIndex x | ldFont x | ldBcd x | regDump x | regLoad x =>
    simp [encode, decode_eq_decodeFamily, decodeFamily, decodeF, fieldOp_xkk, fieldX_xkk, fieldKk_xkk]

/-- R96: family 8 drops none of its operands. -/
theorem encode_of_decode8 {x y n : Nibble} {i : Instr} (h : decode8 x y n = .ok i) :
    encode i = 0x8#4 ++ x ++ y ++ n ∧ i.wellFormed = true := by
  unfold decode8 at h
  split at h <;> cases h <;> exact ⟨rfl, rfl⟩

/-- R97: family E drops none of its operands. -/
theorem encode_of_decodeE {x : Nibble} {kk : Byte} {i : Instr} (h : decodeE x kk = .ok i) :
    encode i = 0xE#4 ++ x ++ kk ∧ i.wellFormed = true := by
  unfold decodeE at h
  split at h <;> cases h <;> exact ⟨rfl, rfl⟩

/-- R98: family F drops none of its operands. -/
theorem encode_of_decodeF {x : Nibble} {kk : Byte} {i : Instr} (h : decodeF x kk = .ok i) :
    encode i = 0xF#4 ++ x ++ kk ∧ i.wellFormed = true := by
  unfold decodeF at h
  split at h <;> cases h <;> exact ⟨rfl, rfl⟩

theorem nibble_cases (n : Nibble) : n = 0x0#4 ∨ n = 0x1#4 ∨ n = 0x2#4 ∨ n = 0x3#4 ∨ n = 0x4#4 ∨ n = 0x5#4 ∨ n = 0x6#4
    ∨ n = 0x7#4 ∨ n = 0x8#4 ∨ n = 0x9#4 ∨ n = 0xA#4 ∨ n = 0xB#4 ∨ n = 0xC#4 ∨ n = 0xD#4 ∨ n = 0xE#4 ∨ n = 0xF#4 := by
  revert n; decide

/-- R93: the dispatch on the high nibble drops no bit, and reads no literal word's instruction. -/
theorem encode_of_decodeFamily {w : Word} {i : Instr} (h : decodeFamily w = .ok i) (hcls : w ≠ 0x00E0#16)
    (hret : w ≠ 0x00EE#16) : encode i = w ∧ i.wellFormed = true := by
  have hnnn := fields_nnn w
  have hxkk := fields_xkk w
  have hxyn := fields_xyn w
  unfold decodeFamily at h
  split at h
  case h_1 hop =>
    rw [hop] at hnnn
    cases h
    have hne : ∀ nnn, (0x0#4 ++ nnn : Word) ≠ w → fieldNnn w ≠ nnn := by
      rintro _ hw rfl
      exact hw hnnn
    refine ⟨hnnn, ?_⟩
    simp [Instr.wellFormed, sysOperandOk, hne 0x0E0#12 hcls.symm, hne 0x0EE#12 hret.symm]
  case h_2 hop | h_3 hop | h_11 hop | h_12 hop =>
    rw [hop] at hnnn
    cases h
    exact ⟨hnnn, rfl⟩
  case h_4 hop | h_5 hop | h_7 hop | h_8 hop | h_13 hop =>
    rw [hop] at hxkk
    cases h
    exact ⟨hxkk, rfl⟩
  case h_6 hop | h_10 hop =>
    split at h
    case isTrue hn =>
      rw [hop, hn] at hxyn
      cases h
      exact ⟨hxyn, rfl⟩
    case isFalse => cases h
  case h_9 hop =>
    rw [hop] at hxyn
    exact hxyn ▸ encode_of_decode8 h
  case h_14 hop =>
    rw [hop] at hxyn
    cases h
    exact ⟨hxyn, rfl⟩
  case h_15 hop =>
    rw [hop] at hxkk
    exact hxkk ▸ encode_of_decodeE h
  case h_16 =>
    have hop : fieldOp w = 0xF#4 := by have := nibble_cases (fieldOp w); tauto
    rw [hop] at hxkk
    exact hxkk ▸ encode_of_decodeF h

/-- Settles O2: the two literal words first, then the dispatch on the high nibble. -/
theorem encodeOfDecode : Obligations.EncodeOfDecode := by
  intro w i h
  unfold decode at h
  split at h
  case isTrue hcls =>
    cases h
    exact ⟨hcls.symm, rfl⟩
  case isFalse hcls =>
    split at h
    case isTrue hret =>
      cases h
      exact ⟨hret.symm, rfl⟩
    case isFalse hret => exact encode_of_decodeFamily h hcls hret

/-- R102: the five sets of failing words, as conditions on the fields. -/
def FieldsFail (op n : Nibble) (kk : Byte) : Prop :=
  (op = 5#4 ∧ n ≠ 0#4)
  ∨ (op = 8#4 ∧ n ∈ [0x8#4, 0x9#4, 0xA#4, 0xB#4, 0xC#4, 0xD#4, 0xF#4])
  ∨ (op = 9#4 ∧ n ≠ 0#4)
  ∨ (op = 0xE#4 ∧ kk ∉ [0x9E#8, 0xA1#8])
  ∨ (op = 0xF#4 ∧ kk ∉ [0x07#8, 0x0A#8, 0x15#8, 0x18#8, 0x1E#8, 0x29#8, 0x33#8, 0x55#8, 0x65#8])

theorem decode8_fails_iff (x y n : Nibble) :
    (∃ e, decode8 x y n = .error e) ↔ n ∈ [0x8#4, 0x9#4, 0xA#4, 0xB#4, 0xC#4, 0xD#4, 0xF#4] := by
  rcases nibble_cases n with h | h | h | h | h | h | h | h | h | h | h | h | h | h | h | h <;> simp [decode8, h]

theorem decodeE_fails_iff (x : Nibble) (kk : Byte) : (∃ e, decodeE x kk = .error e) ↔ kk ∉ [0x9E#8, 0xA1#8] := by
  unfold decodeE
  split <;> simp_all

theorem decodeF_fails_iff (x : Nibble) (kk : Byte) : (∃ e, decodeF x kk = .error e) ↔
    kk ∉ [0x07#8, 0x0A#8, 0x15#8, 0x18#8, 0x1E#8, 0x29#8, 0x33#8, 0x55#8, 0x65#8] := by
  unfold decodeF
  split <;> simp_all

/-- R99: the two families whose low nibble must be 0. -/
theorem ite_fails_iff (c : Prop) [Decidable c] (i : Instr) (f : DecodeFailure) :
    (∃ e, (if c then .ok i else .error f : Except DecodeFailure Instr) = .error e) ↔ ¬ c := by
  split <;> simp_all

theorem decodeFamily_fails_iff (w : Word) :
    (∃ e, decodeFamily w = .error e) ↔ FieldsFail (fieldOp w) (fieldN w) (fieldKk w) := by
  have h8 := decode8_fails_iff (fieldX w) (fieldY w) (fieldN w)
  have hE := decodeE_fails_iff (fieldX w) (fieldKk w)
  have hF := decodeF_fails_iff (fieldX w) (fieldKk w)
  rcases nibble_cases (fieldOp w) with h | h | h | h | h | h | h | h | h | h | h | h | h | h | h | h <;>
    simp [decodeFamily, FieldsFail, h, h8, hE, hF, ite_fails_iff]

theorem not_fieldsFail_zero (n : Nibble) (kk : Byte) : ¬ FieldsFail 0x0#4 n kk := by simp [FieldsFail]

theorem decode_fails_iff (w : Word) :
    (∃ e, decode w = .error e) ↔ FieldsFail (fieldOp w) (fieldN w) (fieldKk w) := by
  by_cases hcls : w = 0x00E0#16
  case pos => subst hcls; exact iff_of_false (by simp [decode]) (not_fieldsFail_zero _ _)
  case neg =>
    by_cases hret : w = 0x00EE#16
    case pos => subst hret; exact iff_of_false (by simp [decode]) (not_fieldsFail_zero _ _)
    case neg =>
      rw [decode, if_neg hcls, if_neg hret]
      exact decodeFamily_fails_iff w

/-- Settles O5: the condition on the fields, which the statement writes out. -/
theorem failingWordsAreExactlyTheListed : Obligations.FailingWordsAreExactlyTheListed :=
  fun w => decode_fails_iff w

/-- R94: every encoded word is selected by its instruction's row of the table. -/
theorem encode_selected (i : Instr) : encode i &&& i.rowMask = i.rowMatch := by
  cases i with
  | cls | ret => rfl
  | sys nnn | jp nnn | call nnn | ldIndex nnn | jpV0 nnn => exact select_nnn _ _
  | seImm x kk | sneImm x kk | ldImm x kk | addImm x kk | rnd x kk => exact select_xkk _ _ _
  | drw x y n => exact select_xyn _ _ _ _
  | seReg x y | sneReg x y | ldReg x y | orReg x y | andReg x y | xorReg x y | addReg x y | subReg x y | shr x y
  | subn x y | shl x y => exact select_xy _ _ _ _
  | skp x | sknp x | ldVxDt x | ldVxKey x | ldDtVx x | ldStVx x | addIndex x | ldFont x | ldBcd x | regDump x
  | regLoad x => exact select_x _ _ _

theorem row_mem_opcodeRows (i : Instr) : (i.rowMask, i.rowMatch) ∈ opcodeRows := by
  cases i <;> simp [Instr.rowMask, Instr.rowMatch, opcodeRows]

/-- R94: a row fixes every field that R102's sets look at, to values outside those sets. -/
def RowFixesFields (row : Word × Word) : Prop :=
  fieldOp row.1 = 0xF#4
  ∧ (fieldOp row.2 ∈ [0x5#4, 0x8#4, 0x9#4] → fieldN row.1 = 0xF#4)
  ∧ (fieldOp row.2 ∈ [0xE#4, 0xF#4] → fieldKk row.1 = 0xFF#8)
  ∧ ¬ FieldsFail (fieldOp row.2) (fieldN row.2) (fieldKk row.2)

theorem opcodeRows_fix_fields : ∀ row ∈ opcodeRows, RowFixesFields row := by
  intro row hrow
  unfold RowFixesFields FieldsFail
  fin_cases hrow <;> decide

/-- A selected word has the row's value in every field under the row's mask. -/
theorem fields_of_selected {w m v : Word} (h : w &&& m = v) : fieldOp w &&& fieldOp m = fieldOp v
    ∧ fieldN w &&& fieldN m = fieldN v ∧ fieldKk w &&& fieldKk m = fieldKk v := by
  subst h
  exact ⟨BitVec.extractLsb'_and.symm, BitVec.extractLsb'_and.symm, BitVec.extractLsb'_and.symm⟩

/-- R102 looks at the low nibble in families 5, 8 and 9 alone, and at the low byte in families E and F alone. -/
theorem FieldsFail.congr {op n n' : Nibble} {kk kk' : Byte} (hn : op ∈ [0x5#4, 0x8#4, 0x9#4] → n' = n)
    (hkk : op ∈ [0xE#4, 0xF#4] → kk' = kk) (h : FieldsFail op n kk) : FieldsFail op n' kk' := by
  rcases h with ⟨rfl, h⟩ | ⟨rfl, h⟩ | ⟨rfl, h⟩ | ⟨rfl, h⟩ | ⟨rfl, h⟩
  · exact .inl ⟨rfl, hn (by simp) ▸ h⟩
  · exact .inr (.inl ⟨rfl, hn (by simp) ▸ h⟩)
  · exact .inr (.inr (.inl ⟨rfl, hn (by simp) ▸ h⟩))
  · exact .inr (.inr (.inr (.inl ⟨rfl, hkk (by simp) ▸ h⟩)))
  · exact .inr (.inr (.inr (.inr ⟨rfl, hkk (by simp) ▸ h⟩)))

theorem not_fieldsFail_of_selected {row : Word × Word} {w : Word} (hrow : row ∈ opcodeRows) (h : w &&& row.1 = row.2) :
    ¬ FieldsFail (fieldOp w) (fieldN w) (fieldKk w) := by
  obtain ⟨hop, hn, hkk⟩ := fields_of_selected h
  obtain ⟨hopMask, hnMask, hkkMask, hok⟩ := opcodeRows_fix_fields row hrow
  rw [hopMask, and_ones4] at hop
  rw [← hop] at hnMask hkkMask hok
  intro hfail
  refine hok (hfail.congr (fun h589 => ?_) (fun hEF => ?_))
  · rw [← hn, hnMask h589, and_ones4]
  · rw [← hkk, hkkMask hEF, and_ones8]

/-- Settles O3: the word of a decoding is the encoded word, which its row selects; and a
word that a row selects is in none of the sets that fail. -/
theorem decodeFollowsOpcodeTable : Obligations.DecodeFollowsOpcodeTable := by
  intro w
  have hrow : ∀ i, decode w = .ok i → w &&& i.rowMask = i.rowMatch := by
    intro i hi
    rw [← (encodeOfDecode w i hi).1]
    exact encode_selected i
  refine ⟨hrow, ?reads, ?selected⟩
  case reads =>
    rintro ⟨i, hi⟩
    exact ⟨_, row_mem_opcodeRows i, hrow i hi⟩
  case selected =>
    rintro ⟨row, hmem, hsel⟩
    cases hd : decode w with
    | ok i => exact ⟨i, rfl⟩
    | error e => exact absurd ((decode_fails_iff w).mp ⟨e, hd⟩) (not_fieldsFail_of_selected hmem hsel)

/-- Settles O6: the model evaluates on eight fixed words. -/
theorem specExampleWordsDecode : Obligations.SpecExampleWordsDecode := by
  unfold Obligations.SpecExampleWordsDecode
  decide

end Sys2Proof
end

section
/-!
PROOFS. What an instruction can do, said once: the fault its checks raise before any write (spec/60_exceptions.md R237), and
where they pass, the parts it may write. The rules about every instruction are read off these two.
-/
namespace Sys2Proof.Machine

/-! ### Equations of the meanings that the earlier parts do not name -/

/-- R201: a match alone empties the key cell, and a match alone skips. -/
theorem exec_skp (x : Nibble) (s : State) : exec (.skp x) s =
    .next ((s.setKey (if s.keyMatches x then none else s.key)).skipIf (s.keyMatches x)) := by
  cases hm : s.keyMatches x with
  | true => exact exec_skp_match x s hm
  | false => exact exec_skp_noMatch x s (by simp [hm])

/-- R202: a match alone empties the key cell, and a match alone does not skip. -/
theorem exec_sknp (x : Nibble) (s : State) : exec (.sknp x) s =
    .next ((s.setKey (if s.keyMatches x then none else s.key)).skipIf (!s.keyMatches x)) := by
  cases hm : s.keyMatches x with
  | true => exact if_pos hm
  | false => exact if_neg (by simp [hm])

/-! ### The checks -/

/-- The fault that the checks of an instruction raise, which precede its writes (D13). -/
def checkFault (i : Instr) (s : State) : Option FatalFault :=
  match i with
  | .ret => if s.sp = 0#4 then some (.stackUnderflow s.pc (encode i)) else none
  | .call _ => if s.sp = 15#4 then some (.stackOverflow s.pc (encode i)) else none
  | .drw _ _ n =>
    if n = 0#4 ∨ s.I.toNat + n.toNat ≤ 0x1000 then none
    else some (.memoryBoundViolation s.pc (encode i) (s.I.toNat + n.toNat - 1))
  | .ldBcd _ =>
    if s.I.toNat + 2 ≤ 0xFFF then none else some (.memoryBoundViolation s.pc (encode i) (s.I.toNat + 2))
  | .regDump x | .regLoad x =>
    if s.I.toNat + x.toNat ≤ 0xFFF then none else some (.memoryBoundViolation s.pc (encode i) (s.I.toNat + x.toNat))
  | _ => none

theorem failed_check {p : Prop} [Decidable p] {f g : FatalFault} (h : (if p then none else some g) = some f) :
    ¬ p ∧ g = f := by simpa using h

/-- A failed check raises its fault and does nothing else. -/
theorem exec_of_checkFault {i : Instr} {s : State} {f : FatalFault} (h : checkFault i s = some f) :
    exec i s = .next (s.raise f) := by
  cases i with
  | ret =>
    obtain ⟨hsp, rfl⟩ : s.sp = 0#4 ∧ _ = f := by simpa [checkFault] using h
    exact execRet_underflow s hsp
  | call nnn =>
    obtain ⟨hsp, rfl⟩ : s.sp = 15#4 ∧ _ = f := by simpa [checkFault] using h
    exact execCall_overflow nnn s hsp
  | drw x y n =>
    obtain ⟨hb, rfl⟩ := failed_check h
    have htop : drwTop s n = s.I.toNat + n.toNat - 1 := by
      rw [drwTop, effAddr]
      have : n.toNat ≠ 0 := fun h0 => hb (.inl (BitVec.eq_of_toNat_eq h0))
      omega
    exact htop ▸ execDrw_bound x y n s (Bool.eq_false_iff.mpr fun hin => hb ((drwInBounds_iff s n).mp hin))
  | ldBcd x =>
    obtain ⟨hb, rfl⟩ := failed_check h
    exact execLdBcd_bound x s hb
  | regDump x =>
    obtain ⟨hb, rfl⟩ := failed_check h
    exact execRegDump_bound x s hb
  | regLoad x =>
    obtain ⟨hb, rfl⟩ := failed_check h
    exact execRegLoad_bound x s hb
  | _ => cases h

/-! ### The meanings whose checks pass -/

theorem exec_ret_checked {s : State} (h : checkFault .ret s = none) :
    exec .ret s = .next ((s.setSp (s.sp - 1#4)).setPc (nextPc (s.slot s.sp))) :=
  execRet_pop s (by simpa [checkFault] using h)

theorem exec_call_checked {nnn : Addr12} {s : State} (h : checkFault (.call nnn) s = none) : exec (.call nnn) s =
    .next (((s.setSp (s.sp + 1#4)).setSlot (s.sp + 1#4) s.pc).setPc (targetOf nnn)) :=
  execCall_push nnn s (by simpa [checkFault] using h)

/-- R192, R237: the sprite is drawn before the sink's answer is looked at. -/
theorem exec_drw_checked {x y n : Nibble} {s : State} (h : checkFault (.drw x y n) s = none) : exec (.drw x y n) s =
    .next (if s.input.sinkFault then (s.drawn x y n).raise (.hostIoFault s.pc (some (encode (.drw x y n))) .render)
      else (s.drawn x y n).emitFrame.advance) := by
  have hb : drwInBounds s n = true := (drwInBounds_iff s n).mpr (by simpa [checkFault, or_iff_not_imp_left] using h)
  cases hf : s.input.sinkFault with
  | true => exact execDrw_refused x y n s hb hf
  | false => exact execDrw_draw x y n s hb hf

theorem exec_ldBcd_checked {x : Nibble} {s : State} (h : checkFault (.ldBcd x) s = none) : exec (.ldBcd x) s =
    .next (((s.setByte s.I.toNat (hundreds (s.reg x))).setByte (s.I.toNat + 1) (tens (s.reg x))).setByte
      (s.I.toNat + 2) (units (s.reg x))).advance :=
  execLdBcd_store x s (by simpa [checkFault] using h)

theorem exec_regDump_checked {x : Nibble} {s : State} (h : checkFault (.regDump x) s = none) :
    exec (.regDump x) s = .next (s.dumpRegs (x.toNat + 1)).advance :=
  execRegDump_store x s (by simpa [checkFault] using h)

theorem exec_regLoad_checked {x : Nibble} {s : State} (h : checkFault (.regLoad x) s = none) :
    exec (.regLoad x) s = .next (s.loadRegs (x.toNat + 1)).advance :=
  execRegLoad_load x s (by simpa [checkFault] using h)

/-! ### The frame -/

/-- The parts an instruction whose checks pass may write; the chapters of the spec list them instruction by instruction. -/
def partsWritten (i : Instr) (s : State) : List Part :=
  match i with
  | .sys _ | .jp _ | .jpV0 _ | .seImm _ _ | .sneImm _ _ | .seReg _ _ | .sneReg _ _ => [.pc]
  | .cls => [.pixels, .pc]
  | .ret => [.stackPointer, .pc]
  | .call _ => [.stackPointer, .slot (s.sp + 1#4), .pc]
  | .ldImm x _ | .addImm x _ | .ldReg x _ | .orReg x _ | .andReg x _ | .xorReg x _ | .rnd x _ | .ldVxDt x => [.reg x, .pc]
  | .addReg x _ | .subReg x _ | .shr x _ | .subn x _ | .shl x _ => [.reg x, .reg VF, .pc]
  | .drw _ _ _ => [.pixels, .reg VF, .outputLog] ++ if s.input.sinkFault then [.runMode] else [.pc]
  | .skp _ | .sknp _ => [.keyCell, .pc]
  | .ldVxKey _ => [.runMode]
  | .ldDtVx _ => [.delay, .pc]
  | .ldStVx _ => [.sound, .pc]
  | .ldIndex _ | .addIndex _ | .ldFont _ => [.index, .pc]
  | .ldBcd _ => [.byte s.I.toNat, .byte (s.I.toNat + 1), .byte (s.I.toNat + 2), .pc]
  | .regDump x => .pc :: byteParts s.I.toNat (x.toNat + 1)
  | .regLoad x => .pc :: regParts (x.toNat + 1)

/-- A write of parts in the list, then the advance. -/
theorem sameBut_then_advance {l : List Part} {s t : State} (h : SameBut l s t) (hpc : Part.pc ∈ l) :
    SameBut l s t.advance := h.trans (sameBut_advance t l hpc)

theorem resultThenFlag_sameBut (s : State) (x : Nibble) (v flag : Byte) :
    SameBut [.reg x, .reg VF, .pc] s (s.resultThenFlag x v flag) := (resultThenFlag_spec s x v flag).2.2.2

theorem drawn_sameBut (s : State) (x y n : Nibble) : SameBut [.pixels, .reg VF] s (s.drawn x y n) :=
  (drawn_spec s x y n).2.2.2

theorem raise_sameBut (s : State) (f : FatalFault) : SameBut [.runMode, .outputLog] s (s.raise f) :=
  (raised_raise s f).2.2

theorem shift_sameBut (s : State) (x : Nibble) (b c d : Byte) :
    SameBut [.reg x, .reg VF, .pc] s (((s.setReg x b).setReg VF c).loadReg x d) :=
  ((sameBut_setReg s _ _ _ (by simp)).trans (sameBut_setReg _ _ _ _ (by simp))).trans
    ((loadReg_sameBut _ x d).mono (by simp))

/-- R9: what a meaning does not mention is unchanged. -/
theorem exec_sameBut {i : Instr} {s t : State} (hc : checkFault i s = none) (h : exec i s = .next t) :
    SameBut (partsWritten i s) s t := by
  cases i with
  | sys nnn | jp nnn | jpV0 nnn | seImm x kk | sneImm x kk | seReg x y | sneReg x y =>
    cases h
    exact sameBut_setPc s _ _ (by simp [partsWritten])
  | cls =>
    cases h
    exact sameBut_then_advance (sameBut_setFb s _ _ (by simp [partsWritten])) (by simp [partsWritten])
  | ret =>
    rw [exec_ret_checked hc] at h
    cases h
    exact (sameBut_setSp s _ _ (by simp [partsWritten])).trans (sameBut_setPc _ _ _ (by simp [partsWritten]))
  | call nnn =>
    rw [exec_call_checked hc] at h
    cases h
    exact ((sameBut_setSp s _ _ (by simp [partsWritten])).trans (sameBut_setSlot _ _ _ _ (by simp [partsWritten]))).trans
      (sameBut_setPc _ _ _ (by simp [partsWritten]))
  | ldImm x kk | addImm x kk | ldReg x y | orReg x y | andReg x y | xorReg x y | rnd x kk | ldVxDt x =>
    cases h
    exact loadReg_sameBut s x _
  | addReg x y | subReg x y | subn x y =>
    cases h
    exact resultThenFlag_sameBut s x _ _
  | shr x y | shl x y =>
    cases h
    exact shift_sameBut s x _ _ _
  | drw x y n =>
    rw [exec_drw_checked hc] at h
    cases h
    have hdrawn : SameBut (partsWritten (.drw x y n) s) s (s.drawn x y n) :=
      (drawn_sameBut s x y n).mono (by simp [partsWritten])
    split
    next hf =>
      exact hdrawn.trans ((raise_sameBut _ _).mono (by simp [partsWritten, hf]))
    next hf =>
      exact sameBut_then_advance (hdrawn.trans (sameBut_emitFrame _ _ (by simp [partsWritten])))
        (by simp [partsWritten, hf])
  | skp x =>
    rw [exec_skp] at h
    cases h
    exact (sameBut_setKey s _ _ (by simp [partsWritten])).trans (sameBut_skipIf _ _ _ (by simp [partsWritten]))
  | sknp x =>
    rw [exec_sknp] at h
    cases h
    exact (sameBut_setKey s _ _ (by simp [partsWritten])).trans (sameBut_skipIf _ _ _ (by simp [partsWritten]))
  | ldVxKey x =>
    cases h
    exact sameBut_setMode s _ _ (by simp [partsWritten])
  | ldDtVx x =>
    cases h
    exact sameBut_then_advance (sameBut_setDT s _ _ (by simp [partsWritten])) (by simp [partsWritten])
  | ldStVx x =>
    cases h
    exact sameBut_then_advance (sameBut_setST s _ _ (by simp [partsWritten])) (by simp [partsWritten])
  | ldIndex nnn | addIndex x | ldFont x =>
    cases h
    exact sameBut_then_advance (sameBut_setI s _ _ (by simp [partsWritten])) (by simp [partsWritten])
  | ldBcd x =>
    rw [exec_ldBcd_checked hc] at h
    cases h
    refine sameBut_then_advance ?_ (by simp [partsWritten])
    exact ((sameBut_setByte s _ _ _ (by simp [partsWritten])).trans (sameBut_setByte _ _ _ _ (by simp [partsWritten]))).trans
      (sameBut_setByte _ _ _ _ (by simp [partsWritten]))
  | regDump x =>
    rw [exec_regDump_checked hc] at h
    cases h
    refine sameBut_then_advance (dumpRegs_sameBut s _ _ fun k hk => ?_) (by simp [partsWritten])
    simpa [partsWritten, mem_byteParts] using hk
  | regLoad x =>
    rw [exec_regLoad_checked hc] at h
    cases h
    refine sameBut_then_advance (loadRegs_sameBut s _ _ fun k hk => ?_) (by simp [partsWritten])
    exact List.mem_cons_of_mem _ (List.mem_map.mpr ⟨k, List.mem_range.mpr hk, rfl⟩)

/-- The two ways of an instruction: a check that fails, or the writes of its list. -/
theorem exec_cases {i : Instr} {s t : State} (h : exec i s = .next t) :
    (∃ f, checkFault i s = some f ∧ t = s.raise f) ∨ (checkFault i s = none ∧ SameBut (partsWritten i s) s t) := by
  cases hc : checkFault i s with
  | some f => exact .inl ⟨f, rfl, Host.Outcome.next.inj (h.symm.trans (exec_of_checkFault hc))⟩
  | none => exact .inr ⟨rfl, exec_sameBut hc h⟩

/-- A part that is neither in the list nor written by a raise is the same after the instruction. -/
theorem exec_same {i : Instr} {s t : State} (h : exec i s = .next t) {p : Part} (hp : p ∉ partsWritten i s)
    (hraise : p ∉ [Part.runMode, Part.outputLog]) : p.Same s t := by
  rcases exec_cases h with ⟨f, -, rfl⟩ | ⟨-, hframe⟩
  · exact raise_sameBut s f p hraise
  · exact hframe p hp

end Sys2Proof.Machine
end

section
/-!
PROOFS. Rules about every instruction (spec/10_state.md, spec/20_memory.md R67, spec/60_exceptions.md R236, R237).
-/
namespace Sys2Proof.Machine

/-! ### Who writes which part -/

/-- R67: the bytes of memory in an instruction's list. -/
theorem byte_mem_partsWritten {i : Instr} {s : State} {a : Nat} (h : Part.byte a ∈ partsWritten i s) :
    (∃ x, i = .ldBcd x ∧ s.I.toNat ≤ a ∧ a ≤ s.I.toNat + 2)
    ∨ (∃ x, i = .regDump x ∧ s.I.toNat ≤ a ∧ a ≤ s.I.toNat + x.toNat) := by
  cases i with
  | ldBcd x =>
    have : a = s.I.toNat ∨ a = s.I.toNat + 1 ∨ a = s.I.toNat + 2 := by simpa [partsWritten] using h
    exact .inl ⟨x, rfl, by omega, by omega⟩
  | regDump x =>
    have : s.I.toNat ≤ a ∧ a < s.I.toNat + (x.toNat + 1) := by simpa [partsWritten, mem_byteParts] using h
    exact .inr ⟨x, rfl, by omega, by omega⟩
  | drw x y n => cases hf : s.input.sinkFault <;> simp [partsWritten, hf] at h
  | regLoad x => simp [partsWritten, regParts] at h
  | _ => simp [partsWritten] at h

/-- R22: the registers in an instruction's list. -/
theorem reg_mem_partsWritten {i : Instr} {s : State} {r : Nibble} (h : Part.reg r ∈ partsWritten i s) :
    r ∈ Instr.regsWritten i := by
  cases i with
  | drw x y n => cases hf : s.input.sinkFault <;> simpa [partsWritten, hf, Instr.regsWritten] using h
  | regDump x => simp [partsWritten, byteParts] at h
  | regLoad x => simpa [partsWritten, regParts, Instr.regsWritten] using h
  | _ => simp_all [partsWritten, Instr.regsWritten]

/-- R24 to R30, R41: the instructions that have a special part in their list, part by part. -/
theorem special_mem_partsWritten (i : Instr) (s : State) :
    (Part.index ∈ partsWritten i s → (∃ nnn, i = .ldIndex nnn) ∨ (∃ x, i = .addIndex x) ∨ ∃ x, i = .ldFont x)
    ∧ (Part.stackPointer ∈ partsWritten i s → i = .ret ∨ ∃ nnn, i = .call nnn)
    ∧ (∀ j, Part.slot j ∈ partsWritten i s → ∃ nnn, i = .call nnn)
    ∧ (Part.pixels ∈ partsWritten i s → i = .cls ∨ ∃ x y n, i = .drw x y n)
    ∧ (Part.delay ∈ partsWritten i s → ∃ x, i = .ldDtVx x)
    ∧ (Part.sound ∈ partsWritten i s → ∃ x, i = .ldStVx x)
    ∧ (Part.keyCell ∈ partsWritten i s → (∃ x, i = .skp x) ∨ ∃ x, i = .sknp x) := by
  cases i with
  | drw x y n => cases hf : s.input.sinkFault <;> simp [partsWritten, hf]
  | regDump x => simp [partsWritten, byteParts]
  | regLoad x => simp [partsWritten, regParts]
  | _ => simp [partsWritten]

theorem slot_mem_partsWritten {i : Instr} {s : State} {j : Nibble} (h : Part.slot j ∈ partsWritten i s) :
    ∃ nnn, i = .call nnn :=
  have ⟨_, _, hslot, _⟩ := special_mem_partsWritten i s
  hslot j h

theorem delay_mem_partsWritten {i : Instr} {s : State} (h : Part.delay ∈ partsWritten i s) : ∃ x, i = .ldDtVx x :=
  have ⟨_, _, _, _, hdelay, _⟩ := special_mem_partsWritten i s
  hdelay h

/-- What an instruction changes, mode and outputs aside, is in its list. -/
theorem mem_partsWritten_of_changed {i : Instr} {s t : State} (h : exec i s = .next t) {p : Part} (hp : ¬ p.Same s t)
    (hraise : p ∉ [Part.runMode, Part.outputLog] := by simp) : p ∈ partsWritten i s := by
  by_contra hmem
  exact hp (exec_same h hmem hraise)

/-! ### What an instruction does to the mode -/

/-- The mode changes by a failed check, by the entry into the wait and by a refused frame, and else not at all. -/
theorem exec_mode_cases {i : Instr} {s t : State} (h : exec i s = .next t) :
    (∃ f, checkFault i s = some f ∧ t = s.raise f)
    ∨ t.mode = s.mode
    ∨ (∃ x, i = .ldVxKey x ∧ t = s.setMode (.waitingForKey x))
    ∨ (∃ x y n, i = .drw x y n ∧ t = (s.drawn x y n).raise (.hostIoFault s.pc (some (encode i)) .render)) := by
  rcases exec_cases h with hfault | ⟨hc, hframe⟩
  · exact .inl hfault
  by_cases hmode : Part.runMode ∈ partsWritten i s
  case neg => exact .inr (.inl (hframe .runMode hmode))
  case pos =>
    cases i with
    | ldVxKey x =>
      cases h
      exact .inr (.inr (.inl ⟨x, rfl, rfl⟩))
    | drw x y n =>
      rw [exec_drw_checked hc] at h
      cases h
      cases hf : s.input.sinkFault with
      | true => exact .inr (.inr (.inr ⟨x, y, n, rfl, rfl⟩))
      | false => simp [partsWritten, hf] at hmode
    | regDump x => simp [partsWritten, byteParts] at hmode
    | regLoad x => simp [partsWritten, regParts] at hmode
    | _ => simp [partsWritten] at hmode

/-- R233: the checks that raise MemoryBoundViolation. -/
theorem checkFault_eq_memoryBound {i : Instr} {s : State} {p w : Word} {a : Nat}
    (h : checkFault i s = some (.memoryBoundViolation p w a)) :
    (∃ x y n, i = .drw x y n ∧ n ≠ 0#4 ∧ s.I.toNat + n.toNat - 1 > 0xFFF) ∨ (∃ x, i = .ldBcd x ∧ s.I.toNat + 2 > 0xFFF)
    ∨ (∃ x, i = .regDump x ∧ s.I.toNat + x.toNat > 0xFFF) ∨ (∃ x, i = .regLoad x ∧ s.I.toNat + x.toNat > 0xFFF) := by
  cases i with
  | ret | call => simp [checkFault] at h
  | drw x y n =>
    obtain ⟨hn, hb⟩ := not_or.mp (failed_check h).1
    exact .inl ⟨x, y, n, rfl, hn, by omega⟩
  | ldBcd x => exact .inr (.inl ⟨x, rfl, not_le.mp (failed_check h).1⟩)
  | regDump x => exact .inr (.inr (.inl ⟨x, rfl, not_le.mp (failed_check h).1⟩))
  | regLoad x => exact .inr (.inr (.inr ⟨x, rfl, not_le.mp (failed_check h).1⟩))
  | _ => cases h

end Sys2Proof.Machine

namespace Sys2Proof
open Machine

/-- Settles O49: a byte that changed is in the instruction's list. -/
theorem memoryWrittenOnlyByStores : Obligations.MemoryWrittenOnlyByStores := by
  intro i s t a h hne
  exact byte_mem_partsWritten (mem_partsWritten_of_changed h (p := .byte a) hne)

/-- Settles O50: a register that changed is in the instruction's list. -/
theorem registersWrittenOnlyAsListed : Obligations.RegistersWrittenOnlyAsListed := by
  intro i s t r h hne
  exact reg_mem_partsWritten (mem_partsWritten_of_changed h (p := .reg r) hne)

/-- Settles O51: a special part that changed is in the instruction's list. -/
theorem specialStateHasItsOwners : Obligations.SpecialStateHasItsOwners := by
  intro i s t h
  obtain ⟨hI, hsp, hslot, hfb, hDT, hST, hkey⟩ := special_mem_partsWritten i s
  exact ⟨fun hne => hI (mem_partsWritten_of_changed h (p := .index) hne),
    fun hne => hsp (mem_partsWritten_of_changed h (p := .stackPointer) hne),
    fun j hne => hslot j (mem_partsWritten_of_changed h (p := .slot j) hne),
    fun hne => hfb (mem_partsWritten_of_changed h (p := .pixels) hne),
    fun hne => hDT (mem_partsWritten_of_changed h (p := .delay) hne),
    fun hne => hST (mem_partsWritten_of_changed h (p := .sound) hne),
    fun hne => hkey (mem_partsWritten_of_changed h (p := .keyCell) hne)⟩

/-- Settles O52: of the ways the mode changes, a failed check changes nothing else, and a refused frame what the drawing
wrote. -/
theorem faultsArePrecise : Obligations.FaultsArePrecise := by
  intro i s t f h hmode hne
  rcases exec_mode_cases h with ⟨g, -, rfl⟩ | hsame | ⟨x, -, rfl⟩ | ⟨x, y, n, rfl, rfl⟩
  case inl =>
    obtain ⟨hg, hout, hframe⟩ := raised_raise s g
    obtain rfl := Mode.faulted.inj (hg.symm.trans hmode)
    exact ⟨hout, .inl hframe⟩
  case inr.inl => exact absurd (hsame ▸ hmode) hne
  case inr.inr.inl => cases hmode
  case inr.inr.inr =>
    have hdrawn := drawn_sameBut s x y n
    obtain ⟨hg, hout, hframe⟩ := raised_raise (s.drawn x y n)
      (.hostIoFault s.pc (some (encode (.drw x y n))) .render)
    obtain rfl := Mode.faulted.inj (hg.symm.trans hmode)
    have hlog : (s.drawn x y n).outputs = s.outputs := hdrawn .outputLog (by simp)
    exact ⟨hlog ▸ hout, .inr ⟨⟨x, y, n, rfl, rfl⟩, (hdrawn.mono (by simp)).trans (hframe.mono (by simp))⟩⟩

/-- Settles O38: each bound is a check of its instruction, and no other check raises this fault. -/
theorem outOfBoundsTransfersRaise : Obligations.OutOfBoundsTransfersRaise := by
  intro s x y n
  refine ⟨fun hn hb => ?drw, fun hb => ?bcd, fun hb => ?dump, fun hb => ?load, ?only⟩
  case drw => exact ⟨_, exec_of_checkFault (if_neg (by simp [hn]; omega)), raised_raise s _⟩
  case bcd => exact ⟨_, exec_of_checkFault (if_neg (by omega)), raised_raise s _⟩
  case dump => exact ⟨_, exec_of_checkFault (if_neg (by omega)), raised_raise s _⟩
  case load => exact ⟨_, exec_of_checkFault (if_neg (by omega)), raised_raise s _⟩
  case only =>
    intro i t p w a h hmode hne
    rcases exec_mode_cases h with ⟨f, hf, rfl⟩ | hsame | ⟨x, -, rfl⟩ | ⟨x, y, n, -, rfl⟩
    · obtain rfl := Mode.faulted.inj hmode
      exact checkFault_eq_memoryBound hf
    · exact absurd hsame.symm hne
    · cases hmode
    · cases hmode

end Sys2Proof
end

section
/-!
PROOFS. What a step of either agent can do, said once (spec/40_execution_cycle.md R121 to R130), and the rules about every
step.
-/
namespace Sys2Proof.Machine

/-! ### The state an executor step works on -/

/-- The environment's choice taken up, and its inputs latched (log 1). -/
def latched (s : State) (input : StepInput) : State := s.takeEvent.setInput input

/-- The state at the fetch: the inputs latched and the polled key recorded (R123, R124). -/
def fetched (s : State) (input : StepInput) : State := (latched s input).setKey (polledKey s input.keyEvent)

theorem latched_sameBut (s : State) (input : StepInput) : SameBut [.environment] s (latched s input) :=
  (sameBut_takeEvent s _ (by simp)).trans (sameBut_setInput _ _ _ (by simp))

theorem fetched_sameBut (s : State) (input : StepInput) : SameBut [.environment, .keyCell] s (fetched s input) :=
  ((latched_sameBut s input).mono (by simp)).trans (sameBut_setKey _ _ _ (by simp))

@[simp] theorem latched_mem (s : State) (input : StepInput) : (latched s input).mem = s.mem := State.takeEvent_mem s
@[simp] theorem latched_pc (s : State) (input : StepInput) : (latched s input).pc = s.pc := State.takeEvent_pc s
@[simp] theorem latched_mode (s : State) (input : StepInput) : (latched s input).mode = s.mode := State.takeEvent_mode s
@[simp] theorem latched_DT (s : State) (input : StepInput) : (latched s input).DT = s.DT := State.takeEvent_DT s
@[simp] theorem latched_outputs (s : State) (input : StepInput) : (latched s input).outputs = s.outputs :=
  State.takeEvent_outputs s
@[simp] theorem latched_slot (s : State) (input : StepInput) (j : Nibble) : (latched s input).slot j = s.slot j :=
  State.slot_takeEvent s j
@[simp] theorem latched_byteAt (s : State) (input : StepInput) (a : Nat) : (latched s input).byteAt a = s.byteAt a :=
  State.byteAt_takeEvent s a

@[simp] theorem fetched_pc (s : State) (input : StepInput) : (fetched s input).pc = s.pc := latched_pc s input
@[simp] theorem fetched_mode (s : State) (input : StepInput) : (fetched s input).mode = s.mode := latched_mode s input
@[simp] theorem fetched_DT (s : State) (input : StepInput) : (fetched s input).DT = s.DT := latched_DT s input
@[simp] theorem fetched_key (s : State) (input : StepInput) : (fetched s input).key = polledKey s input.keyEvent := rfl
@[simp] theorem fetched_outputs (s : State) (input : StepInput) : (fetched s input).outputs = s.outputs :=
  latched_outputs s input
@[simp] theorem fetched_slot (s : State) (input : StepInput) (j : Nibble) : (fetched s input).slot j = s.slot j :=
  latched_slot s input j
@[simp] theorem fetched_byteAt (s : State) (input : StepInput) (a : Nat) : (fetched s input).byteAt a = s.byteAt a :=
  latched_byteAt s input a

theorem CycleStarts.running {s : State} {input : StepInput} (h : CycleStarts s input) : s.mode = .running := h.1.1

/-- R122: an instruction runs in mode Running. -/
theorem CycleStarts.fetched_running {s : State} {input : StepInput} (h : CycleStarts s input) :
    (fetched s input).mode = .running := (fetched_mode s input).trans h.running

/-! ### The outcomes of a step -/

/-- How `t` can come from `s` by one step of either agent. -/
inductive StepOutcome (s t : State) : Prop where
  /-- the timer engine (R130) -/
  | ticked (ht : t = s.takeEvent.tick)
  /-- a sample of the wait with no event (R128) -/
  | waited (input : StepInput) (ht : t = latched s input)
  /-- a sample of the wait with a key (R128) -/
  | keyed (x k : Nibble) (input : StepInput) (hm : s.mode = .waitingForKey x)
      (ht : t = (((latched s input).setReg x (k.setWidth 8)).advance).setMode .running)
  /-- Quit, in either live mode (R123, R128) -/
  | stopped (input : StepInput) (ht : t = (latched s input).stop)
  /-- a failure of the host's input source, or a fetch past the end of memory (R123, R124, R128) -/
  | faulted (input : StepInput) (k : Option Nibble) (f : FatalFault) (ht : t = ((latched s input).setKey k).raise f)
  /-- a word that decodes to no instruction (R101) -/
  | skipped (input : StepInput) (hc : CycleStarts s input) (hp : s.pc.toNat ≤ 0xFFE) (ht : t = (fetched s input).advance)
  /-- an instruction (R125) -/
  | executed (input : StepInput) (i : Instr) (hc : CycleStarts s input) (hp : s.pc.toNat ≤ 0xFFE)
      (hd : decode (s.byteAt s.pc.toNat ++ s.byteAt (s.pc.toNat + 1)) = .ok i) (hx : exec i (fetched s input) = .next t)

theorem step_outcome {s t : State} (h : step s = .next t) : StepOutcome s t := by
  rcases step_cases h with ⟨-, -, ht⟩ | ⟨x, input, hm, -, hw⟩ | ⟨input, -, -, ht⟩ | ⟨input, -, -, ht⟩ | ⟨input, hc, hf⟩
  · exact .ticked ht
  · rcases waitStep_cases hw with ⟨-, ht⟩ | ⟨-, ht⟩ | ⟨-, ht⟩ | ⟨k, -, ht⟩
    · exact .waited input ht
    · exact .stopped input ht
    · exact .faulted input (latched s input).key _ ht
    · exact .keyed x k input hm ht
  · exact .stopped input ht
  · exact .faulted input (latched s input).key _ ht
  · change fetchAndRun (fetched s input) = .next t at hf
    rcases fetchAndRun_cases hf with ⟨-, ht⟩ | ⟨hp, ht, -⟩ | ⟨hp, i, hd, hx⟩
    · exact .faulted input _ _ ht
    · exact .skipped input hc (fetched_pc s input ▸ hp) ht
    · rw [fetched_pc] at hp
      rw [fetched_pc, fetched_byteAt, fetched_byteAt] at hd
      exact .executed input i hc hp hd hx

end Sys2Proof.Machine

namespace Sys2Proof
open Machine

/-- R28, D5: CALL writes the slot after the top, which below the depth limit is not slot 0. -/
theorem slot_zero_not_mem_partsWritten {i : Instr} {s : State} (hc : checkFault i s = none) :
    Part.slot 0#4 ∉ partsWritten i s := by
  intro hmem
  obtain ⟨nnn, rfl⟩ := slot_mem_partsWritten hmem
  have hsp : s.sp ≠ 15#4 := by simpa [checkFault] using hc
  have htop : 0#4 = s.sp + 1#4 := by simpa [partsWritten] using hmem
  bv_omega

/-- Settles O54: CALL is the one writer of the stack. -/
theorem slotZeroIsNeverWritten : Obligations.SlotZeroIsNeverWritten := by
  intro s t h
  cases step_outcome h with
  | ticked ht => subst ht; exact State.slot_takeEvent s 0#4
  | waited input ht | stopped input ht => subst ht; exact latched_slot s input 0#4
  | keyed x k input hm ht => subst ht; exact latched_slot s input 0#4
  | faulted input k f ht => subst ht; exact latched_slot s input 0#4
  | skipped input hc hp ht => subst ht; exact latched_slot s input 0#4
  | executed input i hc hp hd hx =>
    rw [← fetched_slot s input]
    rcases exec_cases hx with ⟨f, -, rfl⟩ | ⟨hcheck, hframe⟩
    · rfl
    · exact hframe (.slot 0#4) (slot_zero_not_mem_partsWritten hcheck)

/-- Settles O53: a tick cannot raise the timer, and of the instructions LD DT, Vx alone writes it. -/
theorem delayTimerRisesOnlyByLoad : Obligations.DelayTimerRisesOnlyByLoad := by
  intro s t h hrise
  have hchanged : t.DT ≠ s.DT := fun e => (Nat.lt_irrefl _) (e ▸ hrise)
  cases step_outcome h with
  | ticked ht =>
    have hdec : t.DT.toNat = s.DT.toNat - 1 := by subst ht; rw [(tick_spec _).1, State.takeEvent_DT]
    omega
  | waited input ht | stopped input ht => subst ht; exact absurd (latched_DT s input) hchanged
  | keyed x k input hm ht => subst ht; exact absurd (latched_DT s input) hchanged
  | faulted input k f ht => subst ht; exact absurd (latched_DT s input) hchanged
  | skipped input hc hp ht => subst ht; exact absurd (latched_DT s input) hchanged
  | executed input i hc hp hd hx =>
    rw [← fetched_DT s input] at hchanged
    obtain ⟨x, rfl⟩ := delay_mem_partsWritten (mem_partsWritten_of_changed hx (p := .delay) hchanged)
    refine ⟨input, x, hc, hp, hd, ?_⟩
    rw [exec_ldDtVx] at hx
    cases hx
    exact fetched_sameBut s input (.reg x) (by simp)

end Sys2Proof
end

section
/-!
PROOFS. The invariants of every step: memory (spec/20_memory.md R60, R66), pc and return addresses
(spec/40_execution_cycle.md R127), the word of the wait (spec/10_state.md R36); and the reset state, which meets them.
-/
namespace Sys2Proof.Machine

/-! ### Memory -/

theorem MemCanonical.congr {s t : State} (h : MemCanonical s) (hmem : t.mem = s.mem) : MemCanonical t := by
  rw [MemCanonical, hmem]; exact h

theorem setByte_memCanonical {s : State} {a : Nat} (b : Byte) (hs : MemCanonical s) (ha : a ≤ 0xFFF) :
    MemCanonical (s.setByte a b) := Memory.wf_write s.mem a b hs (Nat.lt_succ_of_le ha)

theorem dumpRegs_memCanonical {s : State} (k : Nat) (hs : MemCanonical s) (hk : s.I.toNat + k ≤ 0x1000) :
    MemCanonical (s.dumpRegs k) := by
  induction k with
  | zero => exact hs
  | succ k ih => exact setByte_memCanonical _ (ih (by omega)) (by rw [effAddr]; omega)

theorem loadRegs_mem (s : State) (k : Nat) : (s.loadRegs k).mem = s.mem := by
  induction k with
  | zero => rfl
  | succ k ih => exact ih

/-- R66: an instruction writes memory after its bound check alone. -/
theorem exec_memCanonical {i : Instr} {s t : State} (hs : MemCanonical s) (h : exec i s = .next t) : MemCanonical t := by
  rcases exec_cases h with ⟨f, -, rfl⟩ | ⟨hc, -⟩
  · exact hs
  cases i with
  | ldBcd x =>
    have hb : s.I.toNat + 2 ≤ 0xFFF := by simpa [checkFault] using hc
    rw [exec_ldBcd_checked hc] at h
    cases h
    exact setByte_memCanonical _ (setByte_memCanonical _ (setByte_memCanonical _ hs (by omega)) (by omega)) hb
  | regDump x =>
    have hb : s.I.toNat + x.toNat ≤ 0xFFF := by simpa [checkFault] using hc
    rw [exec_regDump_checked hc] at h
    cases h
    exact dumpRegs_memCanonical (x.toNat + 1) hs (by omega)
  | regLoad x =>
    rw [exec_regLoad_checked hc] at h
    cases h
    exact hs.congr (loadRegs_mem s (x.toNat + 1))
  | drw x y n =>
    rw [exec_drw_checked hc] at h
    cases h
    split <;> exact hs
  | ret => rw [exec_ret_checked hc] at h; cases h; exact hs
  | call nnn => rw [exec_call_checked hc] at h; cases h; exact hs
  | skp x => rw [exec_skp] at h; cases h; exact hs
  | sknp x => rw [exec_sknp] at h; cases h; exact hs
  | _ => cases h; exact hs

/-! ### The program counter -/

theorem nextPc_le {p : Word} (hp : p.toNat ≤ 0xFFE) : (nextPc p).toNat ≤ 0x10FE := by
  rw [nextPc]; bv_omega

theorem skipIf_pc_le {s : State} (c : Bool) (hp : s.pc.toNat ≤ 0xFFE) : (s.skipIf c).pc.toNat ≤ 0x10FE := by
  cases c with
  | true => rw [State.skipIf_true_pc]; bv_omega
  | false => exact nextPc_le hp

/-- Widening loses no bit of the byte. -/
@[simp] theorem zextByte_toNat (b : Byte) : (zextByte b).toNat = b.toNat := BitVec.toNat_setWidth_of_le (by decide)

/-- R158: the sum of the computed jump as a number. -/
theorem jpV0_target_toNat (nnn : Addr12) (b : Byte) : (targetOf nnn + zextByte b).toNat = nnn.toNat + b.toNat := by
  rw [BitVec.toNat_add, targetOf_toNat, zextByte_toNat]
  omega

/-- R127: the pc after an instruction that was fetched within memory; the computed jump reaches highest. -/
theorem exec_pc_le {i : Instr} {s t : State} (hp : s.pc.toNat ≤ 0xFFE) (hslots : ∀ j, (s.slot j).toNat ≤ 0xFFE)
    (h : exec i s = .next t) : t.pc.toNat ≤ 0x10FE := by
  rcases exec_cases h with ⟨f, -, rfl⟩ | ⟨hc, -⟩
  · exact hp.trans (by decide)
  cases i with
  | jp nnn => cases h; rw [State.setPc_pc, targetOf_toNat]; omega
  | jpV0 nnn => cases h; rw [State.setPc_pc, jpV0_target_toNat]; omega
  | seImm x kk | sneImm x kk | seReg x y | sneReg x y => cases h; exact skipIf_pc_le _ hp
  | skp x => rw [exec_skp] at h; cases h; exact skipIf_pc_le (s := s.setKey _) _ hp
  | sknp x => rw [exec_sknp] at h; cases h; exact skipIf_pc_le (s := s.setKey _) _ hp
  | ret => rw [exec_ret_checked hc] at h; cases h; exact nextPc_le (hslots _)
  | call nnn => rw [exec_call_checked hc] at h; cases h; rw [State.setPc_pc, targetOf_toNat]; omega
  | drw x y n =>
    rw [exec_drw_checked hc] at h
    cases h
    split
    · exact hp.trans (by decide)
    · exact nextPc_le hp
  | ldVxKey x => cases h; exact hp.trans (by decide)
  | ldBcd x => rw [exec_ldBcd_checked hc] at h; cases h; exact nextPc_le hp
  | regDump x =>
    rw [exec_regDump_checked hc] at h
    cases h
    have hpc : (s.dumpRegs (x.toNat + 1)).pc = s.pc := dumpRegs_sameBut s _ (byteParts s.I.toNat (x.toNat + 1))
      (fun k hk => by simpa [mem_byteParts] using hk) .pc (by simp [byteParts])
    exact nextPc_le (hpc ▸ hp)
  | regLoad x =>
    rw [exec_regLoad_checked hc] at h
    cases h
    have hpc : (s.loadRegs (x.toNat + 1)).pc = s.pc := loadRegs_sameBut s _ (regParts (x.toNat + 1))
      (fun k hk => List.mem_map.mpr ⟨k, List.mem_range.mpr hk, rfl⟩) .pc (by simp [regParts])
    exact nextPc_le (hpc ▸ hp)
  | _ => cases h; exact nextPc_le hp

/-- D39: CALL pushes the address it was fetched from, and no other instruction writes the stack. -/
theorem exec_slot_le {i : Instr} {s t : State} (hp : s.pc.toNat ≤ 0xFFE) (hslots : ∀ j, (s.slot j).toNat ≤ 0xFFE)
    (h : exec i s = .next t) (j : Nibble) : (t.slot j).toNat ≤ 0xFFE := by
  by_cases hsame : t.slot j = s.slot j
  case pos => exact hsame ▸ hslots j
  case neg =>
    obtain ⟨nnn, rfl⟩ := slot_mem_partsWritten (mem_partsWritten_of_changed h (p := .slot j) hsame)
    rcases exec_cases h with ⟨f, -, rfl⟩ | ⟨hc, -⟩
    · exact hslots j
    · rw [exec_call_checked hc] at h
      cases h
      rw [State.slot_setPc, State.slot_setSlot]
      split
      · exact hp
      · exact hslots j

theorem exec_pcBounded {i : Instr} {s t : State} (hm : s.mode = .running) (hp : s.pc.toNat ≤ 0xFFE)
    (hslots : ∀ j, (s.slot j).toNat ≤ 0xFFE) (h : exec i s = .next t) : PcBounded t := by
  refine ⟨exec_pc_le hp hslots h, exec_slot_le hp hslots h, fun x hwait => ?_⟩
  rcases exec_mode_cases h with ⟨f, -, rfl⟩ | hsame | ⟨y, -, rfl⟩ | ⟨y, z, n, -, rfl⟩
  · cases hwait
  · rw [hsame, hm] at hwait; cases hwait
  · exact hp
  · cases hwait

theorem PcBounded.pc_le {s : State} (h : PcBounded s) : s.pc.toNat ≤ 0x10FE := h.1

theorem PcBounded.slot_le {s : State} (h : PcBounded s) (j : Nibble) : (s.slot j).toNat ≤ 0xFFE := h.2.1 j

theorem PcBounded.waiting_pc_le {s : State} {x : Nibble} (h : PcBounded s) (hm : s.mode = .waitingForKey x) :
    s.pc.toNat ≤ 0xFFE := h.2.2 x hm

/-- The invariant looks at pc, slots and mode alone. -/
theorem PcBounded.congr {s t : State} (h : PcBounded s) (hpc : t.pc = s.pc) (hslot : ∀ j, t.slot j = s.slot j)
    (hmode : ∀ x, t.mode = .waitingForKey x → s.mode = .waitingForKey x) : PcBounded t :=
  ⟨hpc ▸ h.pc_le, fun j => hslot j ▸ h.slot_le j, fun x hx => hpc ▸ h.waiting_pc_le (hmode x hx)⟩

end Sys2Proof.Machine

namespace Sys2Proof
open Machine

/-- Settles O56: no step but an instruction writes memory. -/
theorem stepsKeepMemoryCanonical : Obligations.StepsKeepMemoryCanonical := by
  intro s t hs h
  have hl (input : StepInput) : MemCanonical (latched s input) := hs.congr (latched_mem s input)
  cases step_outcome h with
  | ticked ht => subst ht; exact hs.congr (State.takeEvent_mem s)
  | waited input ht | stopped input ht => subst ht; exact hl input
  | keyed x k input hm ht => subst ht; exact hl input
  | faulted input k f ht => subst ht; exact hl input
  | skipped input hc hp ht => subst ht; exact hl input
  | executed input i hc hp hd hx => exact exec_memCanonical (s := fetched s input) (hl input) hx

/-- Settles O57: a step that moves pc starts, by its fetch or by the wait's clause of the invariant, from a pc within
memory. -/
theorem stepsKeepPcBounded : Obligations.StepsKeepPcBounded := by
  intro s t hs h
  cases step_outcome h with
  | ticked ht => subst ht; exact hs.congr (State.takeEvent_pc s) (State.slot_takeEvent s) (by simp [State.tick])
  | waited input ht => subst ht; exact hs.congr (latched_pc s input) (latched_slot s input) (by simp)
  | keyed x k input hm ht =>
    subst ht
    have hp : (latched s input).pc.toNat ≤ 0xFFE := latched_pc s input ▸ hs.waiting_pc_le hm
    exact ⟨nextPc_le hp, fun j => latched_slot s input j ▸ hs.slot_le j, fun y hy => by cases hy⟩
  | stopped input ht =>
    subst ht
    exact hs.congr (latched_pc s input) (latched_slot s input) (fun x hx => by cases hx)
  | faulted input k f ht =>
    subst ht
    exact hs.congr (latched_pc s input) (latched_slot s input) (fun x hx => by cases hx)
  | skipped input hc hp ht =>
    subst ht
    refine ⟨nextPc_le (fetched_pc s input ▸ hp), fun j => fetched_slot s input j ▸ hs.slot_le j, fun x hx => ?_⟩
    cases hc.fetched_running.symm.trans hx
  | executed input i hc hp hd hx =>
    exact exec_pcBounded hc.fetched_running (fetched_pc s input ▸ hp)
      (fun j => fetched_slot s input j ▸ hs.slot_le j) hx

/-- The wait's invariant carries over to a state with the same word at pc that waits for no other register. -/
theorem waitWordAtPc_congr {s t : State} (h : WaitWordAtPc s) (hpc : t.pc = s.pc) (hbyte : ∀ a, t.byteAt a = s.byteAt a)
    (hmode : t.mode = s.mode) : WaitWordAtPc t := by
  intro x hx
  rw [State.wordAt, hpc, hbyte, hbyte]
  exact h x (hmode ▸ hx)

/-- The wait's invariant says nothing of a state that waits for no key. -/
theorem waitWordAtPc_of_not_waiting {t : State} (h : ∀ x, t.mode ≠ .waitingForKey x) : WaitWordAtPc t :=
  fun x hx => absurd hx (h x)

/-- Settles O58: LD Vx, K alone enters the wait, from the word at pc, and the wait moves neither pc nor a byte. -/
theorem stepsKeepTheWaitWord : Obligations.StepsKeepTheWaitWord := by
  intro s t hs h
  cases step_outcome h with
  | ticked ht =>
    subst ht
    exact waitWordAtPc_congr hs (State.takeEvent_pc s) (State.byteAt_takeEvent s) (State.takeEvent_mode s)
  | waited input ht =>
    subst ht
    exact waitWordAtPc_congr hs (latched_pc s input) (latched_byteAt s input) (latched_mode s input)
  | keyed x k input hm ht => subst ht; exact waitWordAtPc_of_not_waiting (by simp)
  | stopped input ht => subst ht; exact waitWordAtPc_of_not_waiting (by simp [State.stop])
  | faulted input k f ht => subst ht; exact waitWordAtPc_of_not_waiting (by simp [State.raise])
  | skipped input hc hp ht =>
    subst ht
    exact waitWordAtPc_of_not_waiting fun x hx => by cases hc.fetched_running.symm.trans hx
  | executed input i hc hp hd hx =>
    rcases exec_mode_cases hx with ⟨f, -, rfl⟩ | hsame | ⟨x, rfl, rfl⟩ | ⟨x, y, n, -, rfl⟩
    · exact waitWordAtPc_of_not_waiting (by simp [State.raise])
    · exact waitWordAtPc_of_not_waiting fun y hy => by cases hc.fetched_running.symm.trans (hsame.symm.trans hy)
    · intro y hy
      obtain rfl := Mode.waitingForKey.inj hy
      have hword : ((fetched s input).setMode (.waitingForKey x)).wordAt (fetched s input).pc.toNat
          = s.byteAt s.pc.toNat ++ s.byteAt (s.pc.toNat + 1) := by simp [State.wordAt, wordOfBytes]
      exact hword ▸ hd
    · exact waitWordAtPc_of_not_waiting (by simp [State.raise])

/-- Settles O59: at reset nothing is listed in memory, pc is 0x200, every slot is 0 and no key is waited for. -/
theorem resetMeetsTheInvariants : Obligations.ResetMeetsTheInvariants := by
  refine ⟨Memory.wf_nil, ⟨by decide, fun j => ?slots, fun x hx => ?wait⟩, waitWordAtPc_of_not_waiting fun x hx => ?word⟩
  case slots => simp [State.slot, State.reset]
  case wait => cases hx
  case word => cases hx

end Sys2Proof
end

section
/-!
PROOFS. The sound timer is never observed (spec/10_state.md R26, spec/45_timers_index_memory.md R212): every layer of the
step gives, from two states that differ in ST alone, two states that differ in ST alone.
-/
namespace Sys2Proof.Machine

/-! ### Instructions -/

theorem checkFault_setST (i : Instr) (s : State) (b : Byte) : checkFault i (s.setST b) = checkFault i s := by
  cases i <;> rfl

theorem dumpRegs_setST (s : State) (b : Byte) (k : Nat) : (s.setST b).dumpRegs k = (s.dumpRegs k).setST b := by
  induction k with
  | zero => rfl
  | succ k ih => rw [State.dumpRegs, ih]; rfl

theorem loadRegs_setST (s : State) (b : Byte) (k : Nat) : (s.setST b).loadRegs k = (s.loadRegs k).setST b := by
  induction k with
  | zero => rfl
  | succ k ih => rw [State.loadRegs, ih]; rfl

/-- LD ST, Vx forgets the old value; every other instruction carries it along. -/
theorem exec_setST {i : Instr} {s t : State} (h : exec i s = .next t) (b : Byte) :
    ∃ c, exec i (s.setST b) = .next (t.setST c) := by
  rcases exec_cases h with ⟨f, hf, rfl⟩ | ⟨hc, -⟩
  · exact ⟨b, exec_of_checkFault ((checkFault_setST i s b).trans hf)⟩
  have hc' : checkFault i (s.setST b) = none := (checkFault_setST i s b).trans hc
  cases i with
  | ldStVx x => cases h; exact ⟨s.reg x, rfl⟩
  | ret => rw [exec_ret_checked hc] at h; cases h; exact ⟨b, exec_ret_checked hc'⟩
  | call nnn => rw [exec_call_checked hc] at h; cases h; exact ⟨b, exec_call_checked hc'⟩
  | drw x y n =>
    rw [exec_drw_checked hc] at h
    cases h
    refine ⟨b, (exec_drw_checked hc').trans ?_⟩
    rw [State.setST_input]
    split <;> rfl
  | skp x => rw [exec_skp] at h; cases h; exact ⟨b, exec_skp x _⟩
  | sknp x => rw [exec_sknp] at h; cases h; exact ⟨b, exec_sknp x _⟩
  | ldBcd x => rw [exec_ldBcd_checked hc] at h; cases h; exact ⟨b, exec_ldBcd_checked hc'⟩
  | regDump x =>
    rw [exec_regDump_checked hc] at h
    cases h
    exact ⟨b, (exec_regDump_checked hc').trans (by rw [dumpRegs_setST]; rfl)⟩
  | regLoad x =>
    rw [exec_regLoad_checked hc] at h
    cases h
    exact ⟨b, (exec_regLoad_checked hc').trans (by rw [loadRegs_setST]; rfl)⟩
  | _ => cases h; exact ⟨b, rfl⟩

/-! ### Steps -/

theorem takeEvent_setST (s : State) (b : Byte) : (s.setST b).takeEvent = s.takeEvent.setST b := by
  unfold State.takeEvent
  rw [State.setST_pending]
  split <;> rfl

theorem latched_setST (s : State) (input : StepInput) (b : Byte) :
    latched (s.setST b) input = (latched s input).setST b := by
  rw [latched, takeEvent_setST]
  rfl

theorem fetched_setST (s : State) (input : StepInput) (b : Byte) :
    fetched (s.setST b) input = (fetched s input).setST b := by
  rw [fetched, latched_setST]
  rfl

theorem fetchAndRun_setST {s t : State} (h : fetchAndRun s = .next t) (b : Byte) :
    ∃ c, fetchAndRun (s.setST b) = .next (t.setST c) := by
  rcases fetchAndRun_cases h with ⟨hp, rfl⟩ | ⟨hp, rfl, e, hd⟩ | ⟨hp, i, hd, hx⟩
  · exact ⟨b, fetchAndRun_fault (s.setST b) hp⟩
  · exact ⟨b, (fetchAndRun_ok (s.setST b) hp).trans (runWord_error _ e _ hd)⟩
  · obtain ⟨c, hc⟩ := exec_setST hx b
    exact ⟨c, (fetchAndRun_ok (s.setST b) hp).trans ((runWord_ok _ i _ hd).trans hc)⟩

theorem waitStep_setST {x : Nibble} {s t : State} (h : waitStep x s = .next t) (b : Byte) :
    waitStep x (s.setST b) = .next (t.setST b) := by
  unfold waitStep at h ⊢
  rw [State.setST_input]
  cases hk : s.input.keyEvent <;> rw [hk] at h <;> cases h <;> rfl

/-- R123: Quit ends the cycle at its poll. -/
theorem step_quit {s : State} {input : StepInput} (h : CycleOffered s input) (hq : input.keyEvent = .quit) :
    step s = .next (latched s input).stop := by
  rw [step_running s h.1, h.2]
  simp [runEvent, execStep, h.1, runCycle, hq, latched]

/-- R123: a failure of the input source ends the cycle at its poll. -/
theorem step_pollFault {s : State} {input : StepInput} (h : CycleOffered s input) (hf : input.keyEvent = .ioFault) :
    step s = .next ((latched s input).raise (.hostIoFault s.pc none .poll)) := by
  rw [step_running s h.1, h.2]
  simp [runEvent, execStep, h.1, runCycle, hf, latched]

/-- R128: a sample of the wait works on the latched state. -/
theorem step_sample {s : State} {x : Nibble} {input : StepInput} (hm : s.mode = .waitingForKey x)
    (he : s.nextEvent = .exec input) : step s = waitStep x (latched s input) := step_wait s x input hm he

/-- R124: a cycle past its poll works on the fetched state. -/
theorem step_fetch {s : State} {input : StepInput} (h : CycleStarts s input) :
    step s = fetchAndRun (fetched s input) := step_cycle s input h

theorem live_of_not_terminal {s : State} (h : ¬ Terminal s) : s.mode = .running ∨ ∃ x, s.mode = .waitingForKey x := by
  cases hm : s.mode with
  | running => exact .inl rfl
  | waitingForKey x => exact .inr ⟨x, rfl⟩
  | stopped => exact absurd (.inl hm) h
  | faulted f => exact absurd (.inr ⟨f, hm⟩) h

end Sys2Proof.Machine

namespace Sys2Proof
open Machine

/-- Settles O55: mode, choice and inputs do not depend on ST, so both states take the same of the five ways of a step. -/
theorem soundTimerIsNeverObserved : Obligations.SoundTimerIsNeverObserved := by
  intro s t b h
  rcases step_cases h with
    ⟨hlive, he, rfl⟩ | ⟨x, input, hm, he, hw⟩ | ⟨input, ho, hq, rfl⟩ | ⟨input, ho, hf, rfl⟩ | ⟨input, hc, hrun⟩
  · refine ⟨decSat b, ?_⟩
    rw [step_tick (s.setST b) (live_of_not_terminal hlive) he, takeEvent_setST]
    rfl
  · refine ⟨b, ?_⟩
    rw [step_sample (s := s.setST b) hm he, latched_setST]
    exact waitStep_setST hw b
  · refine ⟨b, ?_⟩
    rw [step_quit (s := s.setST b) ho hq, latched_setST]
    rfl
  · refine ⟨b, ?_⟩
    rw [step_pollFault (s := s.setST b) ho hf, latched_setST]
    rfl
  · obtain ⟨c, hc'⟩ := fetchAndRun_setST hrun b
    refine ⟨c, ?_⟩
    rw [step_fetch (s := s.setST b) hc, fetched_setST]
    exact hc'

end Sys2Proof
end

section
/-!
PROOFS. The execution cycle (spec/40_execution_cycle.md R121 to R128, R135) and the reset state (spec/70_reset_and_hazards.md).
-/
namespace Sys2Proof.Machine

theorem fetched_eventTaken (s : State) (input : StepInput) : EventTaken s (fetched s input) :=
  ⟨State.takeEvent_pending s, State.takeEvent_envCount s⟩

/-- R124, R125: a cycle past its poll, within memory, runs the word at pc. -/
theorem step_runWord {s : State} {input : StepInput} (hc : CycleStarts s input) (hp : s.pc.toNat ≤ 0xFFE) :
    step s = runWord (s.byteAt s.pc.toNat ++ s.byteAt (s.pc.toNat + 1)) (fetched s input) := by
  rw [step_fetch hc, fetchAndRun_ok _ (fetched_pc s input ▸ hp), fetched_pc, fetched_byteAt, fetched_byteAt]

/-- R9: no meaning is without a next state. -/
theorem exec_next (i : Instr) (s : State) : ∃ t, exec i s = .next t := by
  cases hc : checkFault i s with
  | some f => exact ⟨_, exec_of_checkFault hc⟩
  | none =>
    cases i with
    | ret => exact ⟨_, exec_ret_checked hc⟩
    | call nnn => exact ⟨_, exec_call_checked hc⟩
    | drw x y n => exact ⟨_, exec_drw_checked hc⟩
    | skp x => exact ⟨_, exec_skp x s⟩
    | sknp x => exact ⟨_, exec_sknp x s⟩
    | ldBcd x => exact ⟨_, exec_ldBcd_checked hc⟩
    | regDump x => exact ⟨_, exec_regDump_checked hc⟩
    | regLoad x => exact ⟨_, exec_regLoad_checked hc⟩
    | _ => exact ⟨_, rfl⟩

theorem fetchAndRun_next (s : State) : ∃ t, fetchAndRun s = .next t := by
  by_cases hp : s.pc.toNat ≤ 0xFFE
  case neg => exact ⟨_, fetchAndRun_fault s (not_le.mp hp)⟩
  case pos =>
    rw [fetchAndRun_ok s hp]
    cases hd : decode (s.byteAt s.pc.toNat ++ s.byteAt (s.pc.toNat + 1)) with
    | ok i => exact runWord_ok _ i s hd ▸ exec_next i s
    | error e => exact ⟨_, runWord_error _ e s hd⟩

/-- R128: what the sample of the wait does, event by event. -/
theorem waitStep_eq (x : Nibble) (s : State) : waitStep x s = .next (match s.input.keyEvent with
    | .key k => ((s.setReg x (k.setWidth 8)).advance).setMode .running
    | .quit => s.stop
    | .ioFault => s.raise (.hostIoFault s.pc none .wait)
    | .noEvent => s) := by
  unfold waitStep
  cases s.input.keyEvent <;> rfl

end Sys2Proof.Machine

namespace Sys2Proof
open Machine

/-- Settles O7: the cycle runs the word it fetched in the fetched state. -/
theorem stepRunsTheDecodedInstruction : Obligations.StepRunsTheDecodedInstruction := by
  intro s input i hc hp hd
  exact ⟨fetched s input, (step_runWord hc hp).trans (runWord_ok _ i _ hd), fetched_sameBut s input, rfl,
    fetched_key s input, fetched_eventTaken s input⟩

/-- Settles O8: what runs is the bare advance of the fetched state. -/
theorem undecodedWordIsTwoByteNoOp : Obligations.UndecodedWordIsTwoByteNoOp := by
  intro s input e hc hp hd
  refine ⟨(fetched s input).advance, (step_runWord hc hp).trans (runWord_error _ e _ hd), ?_, fetched_key s input, ?_⟩
  · rw [State.advance_pc, fetched_pc]
  · exact ((fetched_sameBut s input).mono (by simp)).trans (sameBut_advance _ _ (by simp))

/-- Settles O9: the poll's two ends of a cycle work on the latched state, before any fetch. -/
theorem quitOrPollFailureEndsTheCycle : Obligations.QuitOrPollFailureEndsTheCycle := by
  intro s input ho
  have hlatch : SameBut [.runMode, .outputLog, .environment] s (latched s input) :=
    (latched_sameBut s input).mono (by simp)
  refine ⟨fun hq => ?quit, fun hf => ?fault⟩
  case quit =>
    obtain ⟨hmode, hout, hframe⟩ := stop_spec (latched s input)
    exact ⟨_, step_quit ho hq, hmode, latched_outputs s input ▸ hout, hlatch.trans (hframe.mono (by simp))⟩
  case fault =>
    obtain ⟨hmode, hout, hframe⟩ := raised_raise (latched s input) (.hostIoFault s.pc none .poll)
    exact ⟨_, step_pollFault ho hf, hmode, latched_outputs s input ▸ hout, hlatch.trans (hframe.mono (by simp))⟩

/-- Settles O10: the fetch raises in the fetched state, in which the poll's key stands. -/
theorem fetchPastMemoryFaults : Obligations.FetchPastMemoryFaults := by
  intro s input hc hp
  obtain ⟨hmode, hout, hframe⟩ := raised_raise (fetched s input) (.fetchOutOfBounds s.pc)
  refine ⟨(fetched s input).raise (.fetchOutOfBounds s.pc), ?_, hmode, fetched_outputs s input ▸ hout,
    fetched_key s input, ((fetched_sameBut s input).mono (by simp)).trans (hframe.mono (by simp))⟩
  rw [step_fetch hc, fetchAndRun_fault _ (fetched_pc s input ▸ hp), fetched_pc]

/-- R128: a key's code, widened to a byte, keeps its value. -/
theorem keyCode_toNat (k : Nibble) : (k.setWidth 8 : Byte).toNat = k.toNat := BitVec.toNat_setWidth_of_le (by decide)

/-- Settles O11: one sample on the latched state, for each of the four events. -/
theorem keyWaitSample : Obligations.KeyWaitSample := by
  intro s x input hm he
  have hlatch {l : List Part} (hl : Part.environment ∈ l) : SameBut l s (latched s input) :=
    (latched_sameBut s input).mono (by simpa using hl)
  refine ⟨_, (step_sample hm he).trans (waitStep_eq x _), fun k hk => ?key, fun hq => ?quit, fun hf => ?fault,
    fun hn => ?none⟩
  case key =>
    rw [show (latched s input).input.keyEvent = .key k from hk]
    refine ⟨?_, ?_, rfl, ?_⟩
    · rw [State.reg_setMode, State.advance, State.reg_setPc, State.reg_setReg_self, keyCode_toNat]
    · rw [State.setMode_pc, State.advance_pc, State.setReg_pc, latched_pc]
    · exact (hlatch (by simp)).trans (((sameBut_setReg _ _ _ _ (by simp)).trans (sameBut_advance _ _ (by simp))).trans
        (sameBut_setMode _ _ _ (by simp)))
  case quit =>
    rw [show (latched s input).input.keyEvent = .quit from hq]
    obtain ⟨hmode, hout, hframe⟩ := stop_spec (latched s input)
    exact ⟨hmode, latched_outputs s input ▸ hout, (hlatch (by simp)).trans (hframe.mono (by simp))⟩
  case fault =>
    rw [show (latched s input).input.keyEvent = .ioFault from hf, latched_pc]
    obtain ⟨hmode, hout, hframe⟩ := raised_raise (latched s input) (.hostIoFault s.pc none .wait)
    exact ⟨hmode, latched_outputs s input ▸ hout, (hlatch (by simp)).trans (hframe.mono (by simp))⟩
  case none =>
    rw [show (latched s input).input.keyEvent = .noEvent from hn]
    exact hlatch (by simp)

/-- Settles O13: the mode alone decides. -/
theorem terminalModesHaveNoStep : Obligations.TerminalModesHaveNoStep := by
  intro s
  exact ⟨fun hm => by simp [step, machineStep, hm], fun f hm => by simp [step, machineStep, hm]⟩

/-- Settles O14: each choice of the environment, and each event in its inputs, has its next state. -/
theorem everyLiveStateHasANextState : Obligations.EveryLiveStateHasANextState := by
  intro s hlive
  cases he : s.nextEvent with
  | tick => exact ⟨_, step_tick s (live_of_not_terminal hlive) he⟩
  | exec input =>
    rcases live_of_not_terminal hlive with hm | ⟨x, hm⟩
    · by_cases hq : input.keyEvent = .quit
      · exact ⟨_, step_quit ⟨hm, he⟩ hq⟩
      by_cases hf : input.keyEvent = .ioFault
      · exact ⟨_, step_pollFault ⟨hm, he⟩ hf⟩
      rw [step_fetch ⟨⟨hm, he⟩, hq, hf⟩]
      exact fetchAndRun_next _
    · exact ⟨_, (step_sample hm he).trans (waitStep_eq x _)⟩

/-- Settles O15: the reset state is a literal. -/
theorem resetRegisters : Obligations.ResetRegisters := by
  refine ⟨fun x => ?regs, fun j => ?slots, fun r c => ?pixels, rfl, rfl, rfl, rfl, rfl, rfl, rfl⟩
  case regs => simp [State.reg, State.reset]
  case slots => simp [State.slot, State.reset]
  case pixels => exact getPixel_clearFb r c

/-- Settles O16: at reset every byte reads as unlisted, and the font has 80 bytes. -/
theorem resetMemoryHoldsTheFont : Obligations.ResetMemoryHoldsTheFont := by
  refine ⟨by decide, fun a ha => ?_⟩
  exact List.getD_eq_default fontBytes 0#8 ha

/-- Settles O17: within the limit, the copy of the ROM onto the reset state. -/
theorem romIsCopiedVerbatim : Obligations.RomIsCopiedVerbatim := by
  intro rom
  refine ⟨fun hlen => ⟨_, if_pos hlen, fun n hn => ?bytes, ?frame⟩, fun hlen => if_neg (not_le.mpr hlen)⟩
  case bytes =>
    have hin : Config.programBase ≤ 0x200 + n ∧ 0x200 + n < Config.programBase + rom.length := by
      rw [Config.programBase]; omega
    rw [storeBytes_byteAt, if_pos hin, Config.programBase, Nat.add_sub_cancel_left, List.getD_eq_getElem _ _ hn]
  case frame => exact storeBytes_sameBut rom _ _ _ fun k hk => (mem_byteParts _ _ _).mpr (by rw [Config.programBase]; omega)

end Sys2Proof
end

section
/-!
PROOFS. Control flow (spec/41_system_control_flow.md): RET, CALL, JP V0 and the skips.
-/
namespace Sys2Proof.Machine

/-- R158: JP V0 is the bare jump to the sum. -/
theorem exec_jpV0 (nnn : Addr12) (s : State) :
    exec (.jpV0 nnn) s = .next (s.setPc (targetOf nnn + zextByte (s.reg 0#4))) := rfl

/-- R154: SE Vx, byte is the bare skip. -/
theorem exec_seImm (x : Nibble) (kk : Byte) (s : State) : exec (.seImm x kk) s = .next (s.skipIf (s.reg x == kk)) := rfl

/-- R155: SNE Vx, byte is the bare skip. -/
theorem exec_sneImm (x : Nibble) (kk : Byte) (s : State) : exec (.sneImm x kk) s = .next (s.skipIf (s.reg x != kk)) := rfl

/-- R156: SE Vx, Vy is the bare skip. -/
theorem exec_seReg (x y : Nibble) (s : State) : exec (.seReg x y) s = .next (s.skipIf (s.reg x == s.reg y)) := rfl

/-- R157: SNE Vx, Vy is the bare skip. -/
theorem exec_sneReg (x y : Nibble) (s : State) : exec (.sneReg x y) s = .next (s.skipIf (s.reg x != s.reg y)) := rfl

theorem State.skipIf_pc (s : State) (c : Bool) : (s.skipIf c).pc = s.pc + (if c then 4#16 else 2#16) := by
  cases c <;> rfl

/-- R126, R159: the pc after a skip that is taken where two bytes are equal. -/
theorem skipIf_beq_pc (s : State) (a b : Byte) :
    (s.skipIf (a == b)).pc = s.pc + (if a = b then 4#16 else 2#16) := by
  simp [State.skipIf_pc]

/-- R126, R159: the pc after a skip that is taken where two bytes differ. -/
theorem skipIf_bne_pc (s : State) (a b : Byte) :
    (s.skipIf (a != b)).pc = s.pc + (if a = b then 2#16 else 4#16) := by
  by_cases h : a = b <;> simp [State.skipIf_pc, h]

/-- A part that ends as it began drops out of the list. -/
theorem SameBut.drop {p : Part} {l : List Part} {s t : State} (h : SameBut (p :: l) s t) (hp : p.Same s t) :
    SameBut l s t := by
  intro q hq
  by_cases hqp : q = p
  · exact hqp ▸ hp
  · exact h q (by simp [hqp, hq])

theorem checkFault_ret {s : State} (h : s.sp ≠ 0#4) : checkFault .ret s = none := if_neg h

theorem checkFault_call {nnn : Addr12} {s : State} (h : s.sp ≠ 15#4) : checkFault (.call nnn) s = none := if_neg h

end Sys2Proof.Machine

namespace Sys2Proof
open Machine

/-- Settles O19: the pop writes sp and pc alone, and sp, not being 0, does not wrap. -/
theorem retPopsTheStack : Obligations.RetPopsTheStack := by
  intro s hsp
  have hexec := exec_ret_pop s hsp
  refine ⟨_, hexec, ?_, rfl, exec_sameBut (checkFault_ret hsp) hexec⟩
  rw [State.setPc_sp, State.setSp_sp]
  bv_omega

/-- Settles O22: the slot written is the one sp points to afterwards. -/
theorem callPushesItsOwnAddress : Obligations.CallPushesItsOwnAddress := by
  intro s nnn hsp
  have hexec := exec_call_checked (nnn := nnn) (checkFault_call hsp)
  refine ⟨_, hexec, ?sp, ?slot, targetOf_toNat nnn, exec_sameBut (checkFault_call hsp) hexec⟩
  case sp =>
    rw [State.setPc_sp, State.setSlot_sp, State.setSp_sp]
    bv_omega
  case slot => rw [State.slot_setPc, State.setPc_sp, State.setSlot_sp, State.setSp_sp, State.slot_setSlot, if_pos rfl]

/-- Settles O23: the two clauses are CALL's check, failed and passed; the push does not reach the mode. -/
theorem callOverflowsExactlyAtFifteen : Obligations.CallOverflowsExactlyAtFifteen := by
  intro s nnn
  refine ⟨fun hsp => ⟨_, exec_of_checkFault (if_pos hsp), raised_raise s _⟩, fun hsp t h => ?_⟩
  exact exec_sameBut (checkFault_call hsp) h .runMode (by simp [partsWritten])

/-- Settles O24: RET pops the slot that CALL pushed, and sp ends where it began. -/
theorem retAnswersCall : Obligations.RetAnswersCall := by
  intro s t u nnn hsp hcall hbetween
  have hpush := exec_sameBut (checkFault_call hsp) hcall
  rw [exec_call_checked (checkFault_call hsp)] at hcall
  cases hcall
  have husp : u.sp = s.sp + 1#4 := hbetween .stackPointer (by simp)
  have huslot : u.slot u.sp = s.pc := by
    have hsame := hbetween (.slot u.sp) (by simp)
    rw [Part.Same, State.slot_setPc, State.slot_setSlot, if_pos husp] at hsame
    exact hsame
  have hne : u.sp ≠ 0#4 := by rw [husp]; bv_omega
  have hpop := exec_sameBut (checkFault_ret hne) (exec_ret_pop u hne)
  have hback : u.sp - 1#4 = s.sp := by rw [husp]; bv_omega
  refine ⟨_, exec_ret_pop u hne, by rw [State.setPc_pc, huslot]; rfl, hback, SameBut.drop (p := .stackPointer) ?_ hback⟩
  exact ((hpush.mono (by simp [partsWritten])).trans (hbetween.mono (by simp))).trans (hpop.mono (by simp [partsWritten]))

/-- Settles O25: the sum of a 12-bit and an 8-bit number fits a word. -/
theorem jpV0AddsV0 : Obligations.JpV0AddsV0 := by
  intro s nnn
  exact ⟨_, exec_jpV0 nnn s, jpV0_target_toNat nnn _, sameBut_setPc s _ _ (by simp)⟩

/-- Settles O26: each of the four is a bare skip on an equality or on its negation. -/
theorem skipsOnRegisterValues : Obligations.SkipsOnRegisterValues := by
  refine ⟨fun s x kk => ?seImm, fun s x kk => ?sneImm, fun s x y => ?seReg, fun s x y => ?sneReg⟩
  case seImm => exact ⟨_, exec_seImm x kk s, skipIf_beq_pc s _ _, sameBut_skipIf s _ _ (by simp)⟩
  case sneImm => exact ⟨_, exec_sneImm x kk s, skipIf_bne_pc s _ _, sameBut_skipIf s _ _ (by simp)⟩
  case seReg => exact ⟨_, exec_seReg x y s, skipIf_beq_pc s _ _, sameBut_skipIf s _ _ (by simp)⟩
  case sneReg => exact ⟨_, exec_sneReg x y s, skipIf_bne_pc s _ _, sameBut_skipIf s _ _ (by simp)⟩

end Sys2Proof
end

section
/-!
PROOFS. Register arithmetic (spec/42_alu.md): loads, sums, differences and shifts.
-/
namespace Sys2Proof.Machine

/-- R171: LD Vx, byte is a load of Vx and no more. -/
theorem exec_ldImm (x : Nibble) (kk : Byte) (s : State) : exec (.ldImm x kk) s = .next (s.loadReg x kk) := rfl

/-- R172: ADD Vx, byte is a load of Vx and no more. -/
theorem exec_addImm (x : Nibble) (kk : Byte) (s : State) : exec (.addImm x kk) s = .next (s.loadReg x (s.reg x + kk)) := rfl

/-- R173: LD Vx, Vy is a load of Vx and no more. -/
theorem exec_ldReg (x y : Nibble) (s : State) : exec (.ldReg x y) s = .next (s.loadReg x (s.reg y)) := rfl

/-- R177: ADD is a result and its carry. -/
theorem exec_addReg (x y : Nibble) (s : State) : exec (.addReg x y) s =
    .next (s.resultThenFlag x (s.reg x + s.reg y) (carryFlag (s.reg x) (s.reg y))) := rfl

/-- R178: SUB is a result and its flag. -/
theorem exec_subReg (x y : Nibble) (s : State) : exec (.subReg x y) s =
    .next (s.resultThenFlag x (s.reg x - s.reg y) (noBorrowFlag (s.reg x) (s.reg y))) := rfl

/-- R180: SUBN is a result and its flag. -/
theorem exec_subn (x y : Nibble) (s : State) : exec (.subn x y) s =
    .next (s.resultThenFlag x (s.reg y - s.reg x) (noBorrowFlag (s.reg y) (s.reg x))) := rfl

theorem flagByte_decide (p : Prop) [Decidable p] : flagByte (decide p) = if p then 1#8 else 0#8 := by simp [flagByte]

/-- R177: sum and carry together are the exact sum. -/
theorem add_carry_toNat (a b : Byte) : (a + b).toNat + 256 * (carryFlag a b).toNat = a.toNat + b.toNat := by
  rw [carryFlag, flagByte_decide, BitVec.toNat_add]
  split
  case isTrue hcarry =>
    change _ + 256 * 1 = _
    omega
  case isFalse hfits =>
    change _ + 256 * 0 = _
    omega

/-- R178, R180: a borrow is worth 256. -/
theorem sub_noBorrow_toNat (a b : Byte) :
    (a - b).toNat + b.toNat = a.toNat + 256 * (1 - (noBorrowFlag a b).toNat) := by
  have := a.isLt
  have := b.isLt
  rw [noBorrowFlag, flagByte_decide, BitVec.toNat_sub]
  split
  case isTrue hge =>
    change _ = _ + 256 * (1 - 1)
    omega
  case isFalse hborrow =>
    change _ = _ + 256 * (1 - 0)
    omega

/-! ### The shifts -/

/-- R179, R183: what SHR shifts is Vy, but where the flag has overwritten it (D8). -/
theorem exec_shr (x y : Nibble) (s : State) : exec (.shr x y) s =
    .next (((s.setReg x (s.reg y)).setReg VF (shrFlag (s.reg y))).loadReg x
      ((if x = VF then shrFlag (s.reg y) else s.reg y) >>> 1)) := by
  simp [exec, execShr, State.shiftCopy, State.reg_setReg]

/-- R181, R183: what SHL shifts is Vy, but where the flag has overwritten it (D8). -/
theorem exec_shl (x y : Nibble) (s : State) : exec (.shl x y) s =
    .next (((s.setReg x (s.reg y)).setReg VF (shlFlag (s.reg y))).loadReg x
      ((if x = VF then shlFlag (s.reg y) else s.reg y) <<< 1)) := by
  simp [exec, execShl, State.shiftCopy, State.reg_setReg]

/-- A shift's third write spares the flag where the destination is not VF. -/
theorem shift_flag (s : State) (x : Nibble) (b c d : Byte) (h : x ≠ VF) :
    (((s.setReg x b).setReg VF c).loadReg x d).reg VF = c := by
  rw [State.loadReg, State.advance, State.reg_setPc, State.reg_setReg_ne _ _ _ _ h.symm, State.reg_setReg_self]

theorem shrFlag_toNat (b : Byte) : (shrFlag b).toNat = b.toNat % 2 := by
  rw [shrFlag, flagByte_toNat, BitVec.getLsbD, Nat.testBit_zero]
  cases Nat.mod_two_eq_zero_or_one b.toNat with
  | inl h => simp [h]
  | inr h => simp [h]

theorem shlFlag_toNat (b : Byte) : (shlFlag b).toNat = b.toNat / 128 := by
  have hb : b.toNat / 2 ^ 7 % 2 = b.toNat / 128 := by have := b.isLt; omega
  rw [shlFlag, flagByte_toNat, BitVec.getLsbD, Nat.testBit_eq_decide_div_mod_eq, hb]
  have hle : b.toNat / 128 = 0 ∨ b.toNat / 128 = 1 := by have := b.isLt; omega
  cases hle with
  | inl h => simp [h]
  | inr h => simp [h]

theorem shr_toNat (b : Byte) : (b >>> 1).toNat = b.toNat / 2 := by
  rw [BitVec.toNat_ushiftRight, Nat.shiftRight_eq_div_pow, pow_one]

theorem shl_toNat (b : Byte) : (b <<< 1).toNat = 2 * b.toNat % 256 := by
  rw [BitVec.toNat_shiftLeft, Nat.shiftLeft_eq, pow_one, Nat.mul_comm]

end Sys2Proof.Machine

namespace Sys2Proof
open Machine

/-- Settles O27: each of the three is a load of Vx; the sum of the second wraps. -/
theorem loadsAndImmediateAdd : Obligations.LoadsAndImmediateAdd := by
  refine ⟨fun s x kk => ?ldImm, fun s x kk => ?addImm, fun s x y => ?ldReg⟩
  case ldImm => exact ⟨_, exec_ldImm x kk s, loadReg_spec s x kk⟩
  case addImm =>
    obtain ⟨hreg, hpc, hframe⟩ := loadReg_spec s x (s.reg x + kk)
    exact ⟨_, exec_addImm x kk s, by rw [hreg, BitVec.toNat_add], hpc, hframe⟩
  case ldReg => exact ⟨_, exec_ldReg x y s, loadReg_spec s x (s.reg y)⟩

/-- Settles O29: the flag is written last, so VF is the carry for every destination. -/
theorem addSumAndCarry : Obligations.AddSumAndCarry := by
  intro s x y
  obtain ⟨hflag, hres, hpc, hframe⟩ :=
    resultThenFlag_spec s x (s.reg x + s.reg y) (carryFlag (s.reg x) (s.reg y))
  refine ⟨_, exec_addReg x y s, hflag.trans (flagByte_decide _), fun hx => ?_, hpc, hframe⟩
  rw [hres hx, hflag, add_carry_toNat]

/-- Settles O30: the flag is written last, so VF is the no-borrow flag for every destination. -/
theorem subtractAndBorrow : Obligations.SubtractAndBorrow := by
  refine ⟨fun s x y => ?sub, fun s x y => ?subn⟩
  case sub =>
    obtain ⟨hflag, hres, hpc, hframe⟩ :=
      resultThenFlag_spec s x (s.reg x - s.reg y) (noBorrowFlag (s.reg x) (s.reg y))
    refine ⟨_, exec_subReg x y s, hflag.trans (flagByte_decide _), fun hx => ?_, hpc, hframe⟩
    rw [hres hx, hflag, sub_noBorrow_toNat]
  case subn =>
    obtain ⟨hflag, hres, hpc, hframe⟩ :=
      resultThenFlag_spec s x (s.reg y - s.reg x) (noBorrowFlag (s.reg y) (s.reg x))
    refine ⟨_, exec_subn x y s, hflag.trans (flagByte_decide _), fun hx => ?_, hpc, hframe⟩
    rw [hres hx, hflag, sub_noBorrow_toNat]

/-- Settles O31: with another destination Vy is shifted and the flag stands; with destination VF the flag itself is
shifted. -/
theorem shiftsOfVy : Obligations.ShiftsOfVy := by
  refine ⟨fun s x y => ?shr, fun s x y => ?shl⟩
  case shr =>
    refine ⟨_, exec_shr x y s, fun hx => ?other, fun hx => ?vf, rfl, shift_sameBut s x _ _ _⟩
    case other =>
      rw [shift_flag _ _ _ _ _ hx, loadReg_reg, if_neg hx, shr_toNat, shrFlag_toNat]
      omega
    case vf =>
      subst hx
      rw [loadReg_reg, if_pos rfl]
      apply BitVec.eq_of_toNat_eq
      rw [shr_toNat, shrFlag_toNat]
      change _ = 0
      omega
  case shl =>
    have := (s.reg y).isLt
    refine ⟨_, exec_shl x y s, fun hx => ?other, fun hx => ?vf, rfl, shift_sameBut s x _ _ _⟩
    case other =>
      rw [shift_flag _ _ _ _ _ hx, loadReg_reg, if_neg hx, shl_toNat, shlFlag_toNat]
      omega
    case vf =>
      subst hx
      rw [loadReg_reg, if_pos rfl, shl_toNat, shlFlag_toNat]
      omega

end Sys2Proof
end

section
/-!
PROOFS. Keypad (spec/44_keypad.md): SKNP and the entry into the wait; index register (spec/45_timers_index_memory.md): LD I
and ADD I.
-/
namespace Sys2Proof.Machine

/-- R203: LD Vx, K writes the mode and no more. -/
theorem exec_ldVxKey (x : Nibble) (s : State) : exec (.ldVxKey x) s = .next (s.setMode (.waitingForKey x)) := rfl

/-- R213: LD I writes the operand into I and advances. -/
theorem exec_ldIndex (nnn : Addr12) (s : State) : exec (.ldIndex nnn) s = .next (s.setI (targetOf nnn)).advance := rfl

/-- R214: ADD I writes the sum into I and advances. -/
theorem exec_addIndex (x : Nibble) (s : State) :
    exec (.addIndex x) s = .next (s.setI (s.I + zextByte (s.reg x))).advance := rfl

end Sys2Proof.Machine

namespace Sys2Proof
open Machine

/-- Settles O40: the two clauses are the two outcomes of the test for a match. -/
theorem sknpConsumesWithoutSkip : Obligations.SknpConsumesWithoutSkip := by
  intro s x
  rw [← State.keyMatches_iff]
  refine ⟨_, exec_sknp x s, fun hmatch => ?pos, fun hno => ?neg, exec_sameBut rfl (exec_sknp x s)⟩
  case pos => simp [hmatch]
  case neg => simp [hno]

/-- Settles O41: the entry into the wait writes the mode alone. -/
theorem waitIsEntered : Obligations.WaitIsEntered := by
  intro s x
  exact ⟨_, exec_ldVxKey x s, rfl, sameBut_setMode s _ _ (by simp)⟩

/-- Settles O43: each is a write of I and the advance. -/
theorem indexLoadAndAdd : Obligations.IndexLoadAndAdd := by
  refine ⟨fun s nnn => ?load, fun s x => ?add⟩
  case load =>
    refine ⟨_, exec_ldIndex nnn s, ?_, advance_after_write (sameBut_setI s _ _ (by simp)) (by simp)⟩
    rw [State.advance_I, State.setI_I, targetOf_toNat]
  case add =>
    refine ⟨_, exec_addIndex x s, ?_, advance_after_write (sameBut_setI s _ _ (by simp)) (by simp)⟩
    rw [State.advance_I, State.setI_I, BitVec.toNat_add, zextByte_toNat]

end Sys2Proof
end

section
/-!
PROOFS. Display (spec/43_display.md): CLS and DRW.
-/
namespace Sys2Proof.Machine

/-- R191: CLS clears the framebuffer and advances. -/
theorem exec_cls (s : State) : exec .cls s = .next (s.setFb clearFb).advance := rfl

/-- DRW's check, as the statements write its bound (R192, R67, D31). -/
theorem checkFault_drw {x y n : Nibble} {s : State} (h : n = 0#4 ∨ s.I.toNat + n.toNat ≤ 0x1000) :
    checkFault (.drw x y n) s = none := if_pos h

/-- R192: a DRW whose frame is accepted. -/
theorem exec_drw_accepted {x y n : Nibble} {s : State} (h : n = 0#4 ∨ s.I.toNat + n.toNat ≤ 0x1000)
    (hf : s.input.sinkFault = false) : exec (.drw x y n) s = .next (s.drawn x y n).emitFrame.advance :=
  execDrw_draw x y n s ((drwInBounds_iff s n).mpr h) hf

/-- R237: a DRW whose frame is refused. -/
theorem exec_drw_refused {x y n : Nibble} {s : State} (h : n = 0#4 ∨ s.I.toNat + n.toNat ≤ 0x1000)
    (hf : s.input.sinkFault = true) : exec (.drw x y n) s =
      .next ((s.drawn x y n).raise (.hostIoFault s.pc (some (0xD#4 ++ x ++ y ++ n)) .render)) :=
  execDrw_refused x y n s ((drwInBounds_iff s n).mpr h) hf

theorem drawn_pixel (s : State) (x y n : Nibble) (r : Fin 32) (c : Fin 64) : (s.drawn x y n).pixel r c
    = (s.pixel r c ^^ spriteCovers s s.I.toNat (s.reg x) (s.reg y) n.toNat r c) := (drawn_spec s x y n).1 r c

theorem flagByte_eq_one (b : Bool) : flagByte b = 1#8 ↔ b = true := by cases b <;> decide

theorem flagByte_zero_or_one (b : Bool) : flagByte b = 0#8 ∨ flagByte b = 1#8 := by cases b <;> simp [flagByte]

/-- R192: VF ends as 0 or 1, and as 1 exactly where the drawing cleared a set pixel. -/
theorem drawn_collision (s : State) (x y n : Nibble) :
    ((s.drawn x y n).reg VF = 0#8 ∨ (s.drawn x y n).reg VF = 1#8)
    ∧ ((s.drawn x y n).reg VF = 1#8 ↔ ∃ r c, s.pixel r c = true ∧ (s.drawn x y n).pixel r c = false) := by
  obtain ⟨-, hflag, hhit, -⟩ := drawn_spec s x y n
  rw [hflag]
  refine ⟨flagByte_zero_or_one _, (flagByte_eq_one _).trans (hhit.trans ?_)⟩
  refine exists_congr fun r => exists_congr fun c => and_congr_right fun hset => ?_
  rw [drawn_pixel, hset, Bool.true_xor, Bool.not_eq_false']

/-- A framebuffer is its pixels (R190). -/
theorem fb_ext {s t : State} (h : ∀ r c, t.pixel r c = s.pixel r c) : t.fb = s.fb := by
  refine Vector.ext fun r hr => Vector.ext fun c hc => ?_
  exact h ⟨r, hr⟩ ⟨c, hc⟩

/-- A drawing spares I, memory and every register but VF, so the same DRW draws the same picture again. -/
theorem spriteCovers_after_drw {s t : State} (h : SameBut [.pixels, .reg VF, .outputLog, .pc] s t) {x y : Nibble}
    (hx : x ≠ VF) (hy : y ≠ VF) (n : Nat) (r : Fin 32) (c : Fin 64) :
    spriteCovers t t.I.toNat (t.reg x) (t.reg y) n r c = spriteCovers s s.I.toNat (s.reg x) (s.reg y) n r c := by
  have hbyte (a) : t.byteAt a = s.byteAt a := h (.byte a) (by simp)
  have hI : t.I = s.I := h .index (by simp)
  have hregx : t.reg x = s.reg x := h (.reg x) (by simp [hx])
  have hregy : t.reg y = s.reg y := h (.reg y) (by simp [hy])
  simp only [spriteCovers, hbyte, hI, hregx, hregy]

/-- A byte that is not 0 has a set bit. -/
theorem exists_bit_of_ne_zero {b : Byte} (h : b ≠ 0#8) : ∃ k < 8, b.getLsbD k = true := by
  by_contra hall
  push Not at hall
  exact h (BitVec.eq_of_getLsbD_eq fun k hk => by simpa using hall k hk)

/-- R192: a sprite covers some pixel exactly where one of its bytes is not 0. -/
theorem exists_spriteCovers_iff (s : State) (base : Nat) (x0 y0 : Byte) (n : Nibble) :
    (∃ r c, spriteCovers s base x0 y0 n.toNat r c = true) ↔ ∃ k < n.toNat, s.byteAt (base + k) ≠ 0#8 := by
  constructor
  case mp =>
    rintro ⟨r, c, hcov⟩
    simp only [spriteCovers, Bool.and_eq_true, decide_eq_true_eq] at hcov
    obtain ⟨⟨hrow, -⟩, hbit⟩ := hcov
    exact ⟨_, hrow, fun hzero => by simp [hzero] at hbit⟩
  case mpr =>
    rintro ⟨k, hk, hbyte⟩
    obtain ⟨j, hj, hbit⟩ := exists_bit_of_ne_zero hbyte
    have hrow := (eq_spriteRow y0 k (by omega) (spriteRow y0 k)).mp rfl
    have hcol := (eq_spriteCol x0 (7 - j) (by omega) (spriteCol x0 (7 - j))).mp rfl
    refine ⟨spriteRow y0 k, spriteCol x0 (7 - j), ?_⟩
    have hj' : 7 - (7 - j) = j := by omega
    simp only [spriteCovers, hrow, hcol, hj', hbit, hk, decide_true, Bool.true_and, Bool.and_true, decide_eq_true_eq]
    omega

end Sys2Proof.Machine

namespace Sys2Proof
open Machine

/-- Settles O33: CLS writes the framebuffer and pc alone. -/
theorem clsClearsWithoutAFrame : Obligations.ClsClearsWithoutAFrame := by
  intro s
  exact ⟨_, exec_cls s, getPixel_clearFb, rfl, exec_sameBut rfl (exec_cls s)⟩

/-- Settles O34: the drawing, then the frame of what was drawn, then the advance. -/
theorem drwXorsTheSprite : Obligations.DrwXorsTheSprite := by
  intro s x y n hb hf
  obtain ⟨hflag, hhit⟩ := drawn_collision s x y n
  refine ⟨_, exec_drw_accepted hb hf, drawn_pixel s x y n, hflag, hhit, rfl, rfl, ?_⟩
  exact (exec_sameBut (checkFault_drw hb) (exec_drw_accepted hb hf)).mono (by simp [partsWritten, hf])

/-- Settles O37: the drawing, then the fault. -/
theorem refusedFrameFaultsAfterDrawing : Obligations.RefusedFrameFaultsAfterDrawing := by
  intro s x y n hb hf
  obtain ⟨hflag, hhit⟩ := drawn_collision s x y n
  refine ⟨_, exec_drw_refused hb hf, rfl, rfl, drawn_pixel s x y n, hflag, hhit, ?_⟩
  exact (exec_sameBut (checkFault_drw hb) (exec_drw_refused hb hf)).mono (by simp [partsWritten, hf])

/-- Settles O36: the three ends of a DRW, each with its one output. -/
theorem oneFramePerDraw : Obligations.OneFramePerDraw := by
  intro s t x y n h
  refine ⟨fun hb hf => ?accepted, fun hb hf => ?refused, fun hn hb => ?bound⟩
  case accepted =>
    obtain rfl := Host.Outcome.next.inj ((exec_drw_accepted hb hf).symm.trans h)
    rfl
  case refused =>
    obtain rfl := Host.Outcome.next.inj ((exec_drw_refused hb hf).symm.trans h)
    exact ⟨rfl, rfl⟩
  case bound =>
    have hcheck := exec_of_checkFault (i := .drw x y n) (s := s) (if_neg (by simp [hn]; omega))
    obtain rfl := Host.Outcome.next.inj (hcheck.symm.trans h)
    exact ⟨_, rfl⟩

/-- Settles O35: both DRWs XOR the same picture, and two XORs with one picture cancel. On a clear screen the first leaves
the picture itself, and the second clears each pixel of it. -/
theorem drawingTwiceRestoresTheScreen : Obligations.DrawingTwiceRestoresTheScreen := by
  intro s t u x y n hx hy hb hf hst htu
  obtain ⟨t, ht, htpixel, htflag, hthit, -, -, hsame⟩ := drwXorsTheSprite s x y n hb hf
  obtain rfl := Host.Outcome.next.inj (ht.symm.trans hst)
  have hI : t.I = s.I := hsame .index (by simp)
  have hinput : t.input = s.input := (hsame .environment (by simp)).1
  obtain ⟨u, hu, hupixel, -, huhit, -, -, -⟩ := drwXorsTheSprite t x y n (hI ▸ hb) (hinput ▸ hf)
  obtain rfl := Host.Outcome.next.inj (hu.symm.trans htu)
  have hback (r c) : u.pixel r c = s.pixel r c := by
    rw [hupixel, spriteCovers_after_drw hsame hx hy, htpixel, Bool.xor_assoc, Bool.xor_self, Bool.xor_false]
  refine ⟨fb_ext hback, fun hclear => ⟨?first, ?second⟩⟩
  case first =>
    refine htflag.resolve_right fun hone => ?_
    obtain ⟨r, c, hset, -⟩ := hthit.mp hone
    simp [hclear r c] at hset
  case second =>
    rw [huhit, ← exists_spriteCovers_iff s _ (s.reg x) (s.reg y)]
    refine exists_congr fun r => exists_congr fun c => ?_
    rw [hback, htpixel, hclear, Bool.false_xor]
    exact and_iff_left rfl

end Sys2Proof
end

section
/-!
PROOFS. Memory transfers (spec/45_timers_index_memory.md R216 to R219): LD B, RegDump, RegLoad.
-/
namespace Sys2Proof.Machine

/-! ### Decimal digits (R216) -/

theorem hundreds_toNat (v : Byte) : (hundreds v).toNat = v.toNat / 100 := by
  rw [hundreds, BitVec.toNat_ofNat]
  omega

theorem tens_toNat (v : Byte) : (tens v).toNat = v.toNat / 10 % 10 := by
  rw [tens, BitVec.toNat_ofNat]
  omega

theorem units_toNat (v : Byte) : (units v).toNat = v.toNat % 10 := by
  rw [units, BitVec.toNat_ofNat]
  omega

/-- The bound checks of the transfers, as the statements write them (R66). -/
theorem checkFault_ldBcd {x : Nibble} {s : State} (h : s.I.toNat + 2 ≤ 0xFFF) : checkFault (.ldBcd x) s = none := if_pos h

theorem checkFault_regDump {x : Nibble} {s : State} (h : s.I.toNat + x.toNat ≤ 0xFFF) :
    checkFault (.regDump x) s = none := if_pos h

theorem checkFault_regLoad {x : Nibble} {s : State} (h : s.I.toNat + x.toNat ≤ 0xFFF) :
    checkFault (.regLoad x) s = none := if_pos h

@[simp] theorem State.byteAt_advance (s : State) (a : Nat) : s.advance.byteAt a = s.byteAt a := rfl
@[simp] theorem State.reg_advance (s : State) (r : Nibble) : s.advance.reg r = s.reg r := rfl

end Sys2Proof.Machine

namespace Sys2Proof
open Machine

/-- Settles O45: three stores to three addresses, or the failed check. -/
theorem bcdDigitsAreStored : Obligations.BcdDigitsAreStored := by
  intro s x
  refine ⟨fun hb => ?store, fun hb => ⟨_, exec_of_checkFault (if_neg (by omega)), raised_raise s _⟩⟩
  have hexec := exec_ldBcd_checked (checkFault_ldBcd (x := x) hb)
  refine ⟨_, hexec, ?_, ?_, ?_, rfl, exec_sameBut (checkFault_ldBcd hb) hexec⟩
  · simp [State.byteAt_setByte, hundreds_toNat]
  · simp [State.byteAt_setByte, tens_toNat]
  · simp [State.byteAt_setByte, units_toNat]

/-- Settles O46: RegDump is the store of V0 to Vx and the advance. -/
theorem regDumpStoresV0ToVx : Obligations.RegDumpStoresV0ToVx := by
  intro s x hb
  have hexec := exec_regDump_checked (checkFault_regDump hb)
  have hframe := dumpRegs_sameBut s (x.toNat + 1) (byteParts s.I.toNat (x.toNat + 1))
    (fun k hk => (mem_byteParts _ _ _).mpr (by omega))
  refine ⟨_, hexec, fun r hr => ?bytes, ?pc, exec_sameBut (checkFault_regDump hb) hexec⟩
  case bytes =>
    rw [State.byteAt_advance, dumpRegs_byteAt, if_pos (by omega), Nat.add_sub_cancel_left, BitVec.ofNat_toNat,
      BitVec.setWidth_eq]
  case pc => rw [State.advance_pc, show (s.dumpRegs (x.toNat + 1)).pc = s.pc from hframe .pc (by simp [byteParts])]

/-- Settles O47: RegLoad is the load of V0 to Vx and the advance. -/
theorem regLoadLoadsV0ToVx : Obligations.RegLoadLoadsV0ToVx := by
  intro s x hb
  have hexec := exec_regLoad_checked (checkFault_regLoad hb)
  have hframe := loadRegs_sameBut s (x.toNat + 1) (regParts (x.toNat + 1))
    (fun k hk => List.mem_map.mpr ⟨k, List.mem_range.mpr hk, rfl⟩)
  refine ⟨_, hexec, fun r hr => ?regs, ?pc, exec_sameBut (checkFault_regLoad hb) hexec⟩
  case regs => rw [State.reg_advance, loadRegs_reg s _ (by omega), if_pos (by omega)]
  case pc => rw [State.advance_pc, show (s.loadRegs (x.toNat + 1)).pc = s.pc from hframe .pc (by simp [regParts])]

/-- Settles O48: the two bytes at pc are Vr and V(r+1), and the fetch reads them. -/
theorem storedWordIsFetchedNext : Obligations.StoredWordIsFetchedNext := by
  intro s t x r input i hb hdump hr hpc hc hd
  obtain ⟨t', hdump', hbytes, -, -⟩ := regDumpStoresV0ToVx s x hb
  obtain rfl := Host.Outcome.next.inj (hdump'.symm.trans hdump)
  have hnext : (r + 1#4).toNat = r.toNat + 1 := by
    have := x.isLt
    rw [BitVec.toNat_add]
    simp
    omega
  have hhi : t'.byteAt t'.pc.toNat = s.reg r := hpc ▸ hbytes r (by omega)
  have hlo : t'.byteAt (t'.pc.toNat + 1) = s.reg (r + 1#4) := by
    rw [hpc, Nat.add_assoc, ← hnext]
    exact hbytes (r + 1#4) (by omega)
  refine ⟨fetched t' input, ?_, fetched_sameBut t' input⟩
  rw [step_runWord hc (by omega), hhi, hlo, runWord_ok _ i _ hd]

end Sys2Proof
end
